-- ==== Sys2Proof/Word.lean ====
section
/-! DEFINITION. The two word types of the CORE: register width 8, pair and address width 16 (spec/00_scope.md R6, R7).
Their arithmetic is BitVec's own, modulo 256 and modulo 65536 (`+8`, `+16` of R7). -/

namespace Sys2Proof

/-- `u8` of 00_scope.md R7: a register, a memory byte, an opcode byte. -/
abbrev Byte := BitVec 8

/-- `u16` of 00_scope.md R7: a pair, an address, `pc`, `sp`. -/
abbrev Word := BitVec 16

end Sys2Proof
end

