-- ==== Sys2Proof/Machine/Bits.lean ====
section
/-! DEFINITION. Byte order, slices and extensions of 00_scope.md R7 (`hi8 ++ lo8`, `v[hi:lo]`, `sext_16`, `zext_16`),
everything that cuts a word or puts one together, in one place. -/

namespace Sys2Proof

/-- `hi8 ++ lo8` of R7. -/
def mk16 (hi lo : Byte) : Word := hi ++ lo

/-- `v[7:0]`. -/
def lo8 (w : Word) : Byte := w.extractLsb' 0 8

/-- `v[15:8]`. -/
def hi8 (w : Word) : Byte := w.extractLsb' 8 8

/-- `sext_16(e)` of R7: the two's-complement value of a displacement byte. -/
def sext16 (e : Byte) : Word := e.signExtend 16

/-- `zext_16(e)` of R7. -/
def zext16 (e : Byte) : Word := e.setWidth 16

/-- `op[lo+2 : lo]`: the three-bit fields `y` (`lo = 3`) and `z` (`lo = 0`) of 30_encoding.md R102. -/
def field3 (op : Byte) (lo : Nat) : Fin 8 := ⟨op.toNat / 2 ^ lo % 8, Nat.mod_lt _ (by decide)⟩

/-- `op[lo+1 : lo]`: the two-bit fields `x` (`lo = 6`), `p` (`lo = 4`) and `cc` (`lo = 3`) of R102. -/
def field2 (op : Byte) (lo : Nat) : Fin 4 := ⟨op.toNat / 2 ^ lo % 4, Nat.mod_lt _ (by decide)⟩

/-- Byte `k` of a number laid out low byte first: how `opcode_table.json` numbers an instruction's bits. -/
def byteOf (w k : Nat) : Byte := BitVec.ofNat 8 (w / 256 ^ k)

end Sys2Proof
end

