-- ==== Sys2Proof/Config.lean ====
section
/-! DEFINITION. The parameters a step depends on (spec/00_scope.md R6), as plain data, with the spec's defaults.
The spec makes each a named argument of the model; the machine holds them in one constant field of State (log entry 1).
The parameters used only at construction (IMAGE, CART_TYPE_MAP, ROM_BANKS, RAM_INIT, REG_RESET) are arguments of
Machine/Construct.lean, and CYCLES is an argument of Machine/Port.lean. No parameter is an opaque constant:
a claim about every state is a claim about every value of every parameter. -/

namespace Sys2Proof

/-- Permission of a Memory Region (20_memory.md R50). -/
inductive Permission where
  | readOnly
  | readWrite
  deriving DecidableEq, Repr

/-- Where a Memory Region lies and what it permits (20_memory.md R50). Its bytes are in State, keyed by bus address. -/
structure Region where
  base : Nat
  len  : Nat
  perm : Permission
  deriving DecidableEq, Repr

/-- `PRIMARY_TABLE_EXTENT` (D1): whether the tier X opcodes decode. -/
inductive TableExtent where
  | referenceFull
  | sourceFamilies
  deriving DecidableEq, Repr

/-- `HALT_STOP_MODE` (D2): what bytes 0x76 and 0x10 do. -/
inductive HaltStopMode where
  | unknownOpcode
  | stuck
  deriving DecidableEq, Repr

/-- `CARRY_IN_FLAG_MODE` (D3): whether ADC and SBC fold the carry-in into H and C. -/
inductive CarryInFlagMode where
  | excluded
  | included
  deriving DecidableEq, Repr

/-- `RST_PUSH_BIAS` (D5): RST pushes `pc0 + 1` or `pc0 + 2`. -/
inductive RstPushBias where
  | one
  | two
  deriving DecidableEq, Repr

/-- `BANK_OOR_POLICY` (D10): a bank-select value beyond the last bank. -/
inductive BankOorPolicy where
  | fault
  | wrap
  | ignore
  deriving DecidableEq, Repr

/-- `FAULT_STATE_POLICY` (D11): the CPU state after a failed step. -/
inductive FaultStatePolicy where
  | precise
  | unspecified
  deriving DecidableEq, Repr

/-- The parameters of R6 that a step depends on. -/
structure Params where
  regions    : List Region
  extent     : TableExtent
  haltStop   : HaltStopMode
  carryIn    : CarryInFlagMode
  rstBias    : RstPushBias
  bankOor    : BankOorPolicy
  faultState : FaultStatePolicy
  deriving DecidableEq, Repr

/-- R6's defaults; `BUS_REGIONS` is 20_memory.md R55's one ReadWrite region 0x8000 to 0xFFFF. -/
def Params.default : Params where
  regions    := [⟨0x8000, 0x8000, .readWrite⟩]
  extent     := .referenceFull
  haltStop   := .unknownOpcode
  carryIn    := .excluded
  rstBias    := .one
  bankOor    := .fault
  faultState := .precise

/-- What a Memory Region's byte that nothing has written reads as. DESIGN CHOICE (log entry 4), unsafe: the spec leaves
`RAM_INIT` unspecified (D7). Only State.reset rests on it: a state may list any byte for any address. -/
def unlistedByte : Byte := 0x00#8

/-- What an image offset the sparse image does not list reads as. Representation only (log entry 5). -/
def unlistedImageByte : Byte := 0x00#8

end Sys2Proof
end

