-- ==== Sys2Proof/Syntax.lean ====
section
/-! DEFINITION. The instruction set as syntax: the operand selectors of spec/30_encoding.md R104 to R108 and one
constructor of Instr for each of the 104 rows of spec/opcode_table.json, in the table's order. -/

namespace Sys2Proof

/-- The seven 8-bit general registers (10_state.md R20). -/
inductive Reg8 where
  | A | B | C | D | E | H | L
  deriving DecidableEq, Repr

/-- A value of the field map `r8` (30_encoding.md R104): a register, or the memory byte at `xx[HL]`. -/
inductive Sel8 where
  | reg (r : Reg8)
  | hlInd
  deriving DecidableEq, Repr

/-- The pair field map `rp` (30_encoding.md R105). -/
inductive Rp where
  | BC | DE | HL | SP
  deriving DecidableEq, Repr

/-- The pair field map `rp2` of PUSH and POP (30_encoding.md R105). -/
inductive Rp2 where
  | BC | DE | HL | AF
  deriving DecidableEq, Repr

/-- The four encoded conditions (30_encoding.md R106); `Always` is the unconditional opcode of each family. -/
inductive Cond where
  | NZ | Z | NC | C
  deriving DecidableEq, Repr

/-- One constructor per row of opcode_table.json. Immediates are carried assembled (R103): `e8`, `a8` as the byte `o1`,
`d16` and `a16` as `o2 ++ o1`. `stop` carries its second byte, which is no operand (48_misc.md R278). `prefixCB` is the
prefix row (R279), and the `undef…` rows are the eleven undefined bytes (R280). -/
inductive Instr where
  /-- `NOP`, R270. -/
  | nop
  /-- `LD (a16),SP`, R161. -/
  | ldA16SP (a16 : Word)
  /-- `STOP`, R278. -/
  | stop (pad : Byte)
  /-- `JR e8`, R260. -/
  | jrE8 (e8 : Byte)
  /-- `JR cc,e8`, R261. -/
  | jrCcE8 (cc : Cond) (e8 : Byte)
  /-- `LD rr,d16`, R160. -/
  | ldRrD16 (rr : Rp) (d16 : Word)
  /-- `ADD HL,rr`, R202. -/
  | addHLRr (rr : Rp)
  /-- `LD (BC),A`, R139. -/
  | ldBCA
  /-- `LD (DE),A`, R140. -/
  | ldDEA
  /-- `LD (HL+),A`, R135. -/
  | ldHLIncA
  /-- `LD (HL-),A`, R136. -/
  | ldHLDecA
  /-- `LD A,(BC)`, R141. -/
  | ldABC
  /-- `LD A,(DE)`, R142. -/
  | ldADE
  /-- `LD A,(HL+)`, R137. -/
  | ldAHLInc
  /-- `LD A,(HL-)`, R138. -/
  | ldAHLDec
  /-- `INC rr`, R200. -/
  | incRr (rr : Rp)
  /-- `DEC rr`, R201. -/
  | decRr (rr : Rp)
  /-- `INC r`, R196. -/
  | incR (r : Reg8)
  /-- `INC (HL)`, R197. -/
  | incHL
  /-- `DEC r`, R198. -/
  | decR (r : Reg8)
  /-- `DEC (HL)`, R199. -/
  | decHL
  /-- `LD r,d8`, R131. -/
  | ldRD8 (r : Reg8) (d8 : Byte)
  /-- `LD (HL),d8`, R134. -/
  | ldHLD8 (d8 : Byte)
  /-- `RLCA`, R218. -/
  | rlca
  /-- `RRCA`, R220. -/
  | rrca
  /-- `RLA`, R219. -/
  | rla
  /-- `RRA`, R221. -/
  | rra
  /-- `DAA`, R276. -/
  | daa
  /-- `CPL`, R273. -/
  | cpl
  /-- `SCF`, R275. -/
  | scf
  /-- `CCF`, R274. -/
  | ccf
  /-- `LD r,r'`, R130. -/
  | ldRR (r r' : Reg8)
  /-- `LD r,(HL)`, R132. -/
  | ldRHL (r : Reg8)
  /-- `LD (HL),r`, R133. -/
  | ldHLR (r : Reg8)
  /-- `HALT`, R277. -/
  | halt
  /-- `ADD A,r`, R172. -/
  | addAR (r : Reg8)
  /-- `ADD A,(HL)`, R173. -/
  | addAHL
  /-- `ADC A,r`, R175. -/
  | adcAR (r : Reg8)
  /-- `ADC A,(HL)`, R176. -/
  | adcAHL
  /-- `SUB r`, R178. -/
  | subR (r : Reg8)
  /-- `SUB (HL)`, R179. -/
  | subHL
  /-- `SBC A,r`, R181. -/
  | sbcAR (r : Reg8)
  /-- `SBC A,(HL)`, R182. -/
  | sbcAHL
  /-- `AND r`, R184. -/
  | andR (r : Reg8)
  /-- `AND (HL)`, R185. -/
  | andHL
  /-- `XOR r`, R187. -/
  | xorR (r : Reg8)
  /-- `XOR (HL)`, R188. -/
  | xorHL
  /-- `OR r`, R190. -/
  | orR (r : Reg8)
  /-- `OR (HL)`, R191. -/
  | orHL
  /-- `CP r`, R193. -/
  | cpR (r : Reg8)
  /-- `CP (HL)`, R194. -/
  | cpHL
  /-- `ADD A,d8`, R174. -/
  | addAD8 (d8 : Byte)
  /-- `ADC A,d8`, R177. -/
  | adcAD8 (d8 : Byte)
  /-- `SUB d8`, R180. -/
  | subD8 (d8 : Byte)
  /-- `SBC A,d8`, R183. -/
  | sbcAD8 (d8 : Byte)
  /-- `AND d8`, R186. -/
  | andD8 (d8 : Byte)
  /-- `XOR d8`, R189. -/
  | xorD8 (d8 : Byte)
  /-- `OR d8`, R192. -/
  | orD8 (d8 : Byte)
  /-- `CP d8`, R195. -/
  | cpD8 (d8 : Byte)
  /-- `RET cc`, R246. -/
  | retCc (cc : Cond)
  /-- `LDH (a8),A`, R145. -/
  | ldhA8A (a8 : Byte)
  /-- `LDH A,(a8)`, R146. -/
  | ldhAA8 (a8 : Byte)
  /-- `ADD SP,e8`, R203. -/
  | addSPE8 (e8 : Byte)
  /-- `LD HL,SP+e8`, R163. -/
  | ldHLSPE8 (e8 : Byte)
  /-- `POP rr`, R242. -/
  | popRr (rr : Rp2)
  /-- `RET`, R245. -/
  | ret
  /-- `RETI`, R248. -/
  | reti
  /-- `JP HL`, R264. -/
  | jpHL
  /-- `LD SP,HL`, R162. -/
  | ldSPHL
  /-- `JP cc,a16`, R263. -/
  | jpCcA16 (cc : Cond) (a16 : Word)
  /-- `LD (C),A`, R147. -/
  | ldCA
  /-- `LD A,(C)`, R148. -/
  | ldAC
  /-- `LD (a16),A`, R143. -/
  | ldA16A (a16 : Word)
  /-- `LD A,(a16)`, R144. -/
  | ldAA16 (a16 : Word)
  /-- `JP a16`, R262. -/
  | jpA16 (a16 : Word)
  /-- `PREFIX CB`, R279. -/
  | prefixCB
  /-- `DI`, R271. -/
  | di
  /-- `EI`, R272. -/
  | ei
  /-- `CALL cc,a16`, R244. -/
  | callCcA16 (cc : Cond) (a16 : Word)
  /-- `PUSH rr`, R241. -/
  | pushRr (rr : Rp2)
  /-- `CALL a16`, R243. -/
  | callA16 (a16 : Word)
  /-- `RST n`, R247. -/
  | rstN (y : Fin 8)
  /-- `(undefined 0xD3)`, R280. -/
  | undefD3
  /-- `(undefined 0xDB)`, R280. -/
  | undefDB
  /-- `(undefined 0xDD)`, R280. -/
  | undefDD
  /-- `(undefined 0xE3)`, R280. -/
  | undefE3
  /-- `(undefined 0xE4)`, R280. -/
  | undefE4
  /-- `(undefined 0xEB)`, R280. -/
  | undefEB
  /-- `(undefined 0xEC)`, R280. -/
  | undefEC
  /-- `(undefined 0xED)`, R280. -/
  | undefED
  /-- `(undefined 0xF4)`, R280. -/
  | undefF4
  /-- `(undefined 0xFC)`, R280. -/
  | undefFC
  /-- `(undefined 0xFD)`, R280. -/
  | undefFD
  /-- `RLC t`, R210. -/
  | rlcT (t : Sel8)
  /-- `RRC t`, R211. -/
  | rrcT (t : Sel8)
  /-- `RL t`, R212. -/
  | rlT (t : Sel8)
  /-- `RR t`, R213. -/
  | rrT (t : Sel8)
  /-- `SLA t`, R214. -/
  | slaT (t : Sel8)
  /-- `SRA t`, R215. -/
  | sraT (t : Sel8)
  /-- `SWAP t`, R216. -/
  | swapT (t : Sel8)
  /-- `SRL t`, R217. -/
  | srlT (t : Sel8)
  /-- `BIT b,t`, R230. -/
  | bitBT (b : Fin 8) (t : Sel8)
  /-- `RES b,t`, R231. -/
  | resBT (b : Fin 8) (t : Sel8)
  /-- `SET b,t`, R232. -/
  | setBT (b : Fin 8) (t : Sel8)
  deriving DecidableEq, Repr

end Sys2Proof
end

