-- ==== Sys2Proof/Machine/State.lean ====
section
/-! DEFINITION. The state of the CORE (spec/10_state.md, 20_memory.md R50, R64, R65), the errors a step can end with
(60_exceptions.md R300) and the state after reset (R37, R330). Everything is plain data. -/

namespace Sys2Proof.Machine

/-- Sparse bytes by key. The canonical form is `cellsWf` (Machine/Ops.lean). -/
abbrev Cells := List Host.Cell

/-- The bytes of the bus's Memory Regions, keyed by bus address. -/
abbrev Memory := Cells

/-- The four flags (10_state.md R23). -/
structure Flags where
  z : Bool
  n : Bool
  h : Bool
  c : Bool
  deriving DecidableEq, Repr

/-- A cartridge image: its length in bytes and its bytes, keyed by image offset; an offset below `len` that is not
listed holds `unlistedImageByte` (log entry 5). -/
structure Image where
  len   : Nat
  cells : Cells
  deriving DecidableEq, Repr

/-- The cartridge device (20_memory.md R64, R65). `bankSel` is the bank-select register (10_state.md R32), the one
mutable part; a Type0 cartridge has none. -/
inductive Cartridge where
  | type0 (image : Image)
  | type1 (image : Image) (bankSel : Nat)
  deriving DecidableEq, Repr

/-- The state of the CORE. `par` is constant: the parameters a step depends on (log entry 1). -/
structure State where
  a    : Byte
  b    : Byte
  c    : Byte
  d    : Byte
  e    : Byte
  h    : Byte
  l    : Byte
  f    : Flags
  sp   : Word
  pc   : Word
  cart : Cartridge
  mem  : Memory
  par  : Params
  deriving DecidableEq, Repr

/-- The error kinds of 60_exceptions.md R300, in its order, with its informative payloads (D23). Each ends the step
(or the construction) as the spec says; none is the model's own. -/
inductive Fault where
  /-- R301: no device claims the address, or a bank select beyond the last bank under policy `fault`. Raised by any
  load, store or instruction fetch. The spec's own error: safe. -/
  | unmappedAddress (addr : Word)
  /-- R302: a store to read-only content. Raised by any store. The spec's own error: safe. -/
  | permissionDenied (addr : Word)
  /-- R310: the image's type code is not supported. Raised by construction only. The spec's own error: safe. -/
  | unsupportedCartridgeType (code : Byte)
  /-- R305: an operand selector its operation does not define. Raised by a write to an immediate selector, which no
  instruction makes. The spec's own error: safe. -/
  | invalidOperand
  /-- R303: the first byte misses the primary table. Raised by fetch and by the rows that stand for such a byte. The
  spec's own error: safe. -/
  | unknownOpcode (b0 : Byte)
  /-- R310: the image's length does not fit its header. Raised by construction only. The spec's own error: safe. -/
  | imageGeometryMismatch
  deriving DecidableEq, Repr

/-- Why the model gives no meaning. -/
inductive Refusal where
  /-- An instruction without a meaning, rejected by its arm of exec. None is left. Safe. -/
  | notModelled (mnemonic : String)
  /-- Construction from a configuration that is not well formed: "a model refuses a configuration that is not"
  (20_memory.md R53). Raised by construction only. Safe. -/
  | illFormedConfiguration
  deriving DecidableEq, Repr

/-- What a meaning answers. -/
abbrev Result := Host.Outcome State Fault Refusal

/-- `REG_RESET` of R6: register and flag values at reset. -/
structure RegReset where
  a : Byte
  b : Byte
  c : Byte
  d : Byte
  e : Byte
  h : Byte
  l : Byte
  f : Flags
  deriving DecidableEq, Repr

/-- `REG_RESET`'s default: all zero (D4; log entry 3). -/
def RegReset.default : RegReset := ⟨0#8, 0#8, 0#8, 0#8, 0#8, 0#8, 0#8, ⟨false, false, false, false⟩⟩

/-- The image of the spec's fixture T0 with no instruction placed in it: 0x8000 bytes 0x00 (95_test_vectors.md
part 0). Its type code, byte 0x147, is 0x00: Type0. State.reset's IMAGE (log entry 2). -/
def blankImage : Image := ⟨0x8000, []⟩

/-- The state after construction: `pc = 0x0100`, `sp = 0x0000`, registers from `REG_RESET`, RAM from `RAM_INIT`
(10_state.md R37, 70_reset_and_hazards.md R330). -/
def State.initial (regs : RegReset) (cart : Cartridge) (mem : Memory) (par : Params) : State where
  a := regs.a
  b := regs.b
  c := regs.c
  d := regs.d
  e := regs.e
  h := regs.h
  l := regs.l
  f := regs.f
  sp := 0x0000#16
  pc := 0x0100#16
  cart := cart
  mem := mem
  par := par

/-- The machine right after reset, every parameter at its default: row RST-1 of 95_test_vectors.md part 14. It is what
Machine/Construct.lean builds from `blankImage`. -/
def State.reset : State := State.initial RegReset.default (.type0 blankImage) [] Params.default

end Sys2Proof.Machine
end

