-- ==== Sys2Proof/Machine/Ops.lean ====
section
/-! DEFINITION. The named operations every meaning is built from: sparse bytes in canonical form, Memory Regions and
the cartridge (spec/20_memory.md), the bus and the access primitives `MemRead`, `MemWrite` (R54 to R59), registers and
pairs (10_state.md R20 to R24), the stack (46_stack_call.md R240), and ending a step (60_exceptions.md R300 to R309). -/

namespace Sys2Proof.Machine

/-! ## Sparse bytes -/

/-- The byte at a key; `fill` where none is listed. -/
def cellsGet (fill : Byte) : Cells → Nat → Byte
  | [], _ => fill
  | (k, v) :: rest, a => if a = k then v else cellsGet fill rest a

/-- Without the entries at a key. -/
def cellsErase (a : Nat) (m : Cells) : Cells := m.filter fun c => c.1 != a

/-- With an entry put before the first higher key. -/
def cellsInsert (a : Nat) (v : Byte) : Cells → Cells
  | [] => [(a, v)]
  | (k, w) :: rest => if a < k then (a, v) :: (k, w) :: rest else (k, w) :: cellsInsert a v rest

/-- A write: writing `fill` removes the entry, so that equal contents are equal data. -/
def cellsPut (fill : Byte) (m : Cells) (a : Nat) (v : Byte) : Cells :=
  if v = fill then cellsErase a m else cellsInsert a v (cellsErase a m)

/-- The canonical form: keys strictly rising, no entry equal to `fill`. -/
def cellsWf (fill : Byte) : Cells → Bool
  | [] => true
  | (k, v) :: rest => v != fill && rest.all (fun c => decide (k < c.1)) && cellsWf fill rest

/-- The canonical form of the bus's memory. -/
def Memory.wf (m : Memory) : Bool := cellsWf unlistedByte m

/-- The byte a Memory Region holds at a bus address. -/
def memGet (m : Memory) (a : Nat) : Byte := cellsGet unlistedByte m a

/-- Byte `o` of an image. -/
def Image.byte (img : Image) (o : Nat) : Byte := cellsGet unlistedImageByte img.cells o

/-! ## Memory Region (R50 to R52) -/

/-- Whether the region's window `[base, base + len)` holds the address (R50). -/
def inWindow (r : Region) (a : Nat) : Bool := decide (r.base ≤ a) && decide (a < r.base + r.len)

/-- R51, over bytes keyed by bus address. -/
def regionLoad (fill : Byte) (r : Region) (bytes : Cells) (a : Word) : Except Fault Byte :=
  if inWindow r a.toNat then .ok (cellsGet fill bytes a.toNat) else .error (.unmappedAddress a)

/-- R52: the bound check first, then the permission, then the byte. -/
def regionStore (fill : Byte) (r : Region) (bytes : Cells) (a : Word) (v : Byte) : Except Fault Cells :=
  if inWindow r a.toNat then
    match r.perm with
    | .readOnly => .error (.permissionDenied a)
    | .readWrite => .ok (cellsPut fill bytes a.toNat v)
  else .error (.unmappedAddress a)

/-! ## The cartridge (R64 to R70) -/

/-- 16 KiB: the size of a bank (R65). -/
def bankSize : Nat := 0x4000

/-- `NSW`, the number of switchable banks. Construction makes the image `ROM_BANKS` banks long (R63), so it is the
image's length in banks less the fixed one. -/
def Image.nsw (img : Image) : Nat := img.len / bankSize - 1

/-- The Memory Region a Type0 cartridge is (R64). -/
def type0Region (img : Image) : Region := ⟨0, img.len, .readOnly⟩

/-- The bus window of the cartridge (R64, R65). -/
def Cartridge.window : Cartridge → Region
  | .type0 img => type0Region img
  | .type1 _ _ => ⟨0, 0x8000, .readOnly⟩

/-- The image of either variant. -/
def Cartridge.image : Cartridge → Image
  | .type0 img => img
  | .type1 img _ => img

/-- The image offset a Type1 load reads (R66): the fixed bank, or bank `bank_sel + 1` of the image. -/
def type1Offset (bankSel : Nat) (a : Nat) : Nat :=
  if a < 0x4000 then a else bankSize * (bankSel + 1) + (a - 0x4000)

/-- `bank_index(value)` of R68. -/
def bankIndex (v : Byte) : Nat := (if v = 0#8 then 1 else v.toNat) - 1

/-- Loads: R64 for Type0, R66 for Type1. -/
def cartLoad : Cartridge → Word → Except Fault Byte
  | .type0 img, a => regionLoad unlistedImageByte (type0Region img) img.cells a
  | .type1 img sel, a =>
    if a.toNat ≤ 0x7FFF then .ok (img.byte (type1Offset sel a.toNat)) else .error (.unmappedAddress a)

/-- R69: what a bank select with index `n` does. -/
def selectBank (policy : BankOorPolicy) (nsw sel n : Nat) (a : Word) : Except Fault Nat :=
  if n < nsw then .ok n
  else match policy with
    | .fault => .error (.unmappedAddress a)
    | .wrap => .ok (n % nsw)
    | .ignore => .ok sel

/-- Stores: R64 for Type0, R67 for Type1. -/
def cartStore (policy : BankOorPolicy) : Cartridge → Word → Byte → Except Fault Cartridge
  | .type0 img, a, v =>
    match regionStore unlistedImageByte (type0Region img) img.cells a v with
    | .ok bytes => .ok (.type0 ⟨img.len, bytes⟩)
    | .error e => .error e
  | .type1 img sel, a, v =>
    if 0x2000 ≤ a.toNat ∧ a.toNat ≤ 0x3FFF then
      match selectBank policy img.nsw sel (bankIndex v) a with
      | .ok n => .ok (.type1 img n)
      | .error e => .error e
    else if a.toNat ≤ 0x7FFF then .error (.permissionDenied a)
    else .error (.unmappedAddress a)

/-! ## The bus (R53, R54) -/

/-- A device of the bus (R53). -/
inductive Device where
  | cartridge
  | region (r : Region)
  deriving DecidableEq, Repr

/-- R54's linear address-range matching: the cartridge, then the regions in list order (R53). -/
def route (s : State) (a : Word) : Option Device :=
  if inWindow s.cart.window a.toNat then some .cartridge
  else match s.par.regions.find? (fun r => inWindow r a.toNat) with
    | some r => some (.region r)
    | none => none

/-- `bus_load` of R54; `MemRead(addr, 1)` of R56. -/
def busLoad (s : State) (a : Word) : Except Fault Byte :=
  match route s a with
  | none => .error (.unmappedAddress a)
  | some .cartridge => cartLoad s.cart a
  | some (.region r) => regionLoad unlistedByte r s.mem a

/-- `bus_store` of R54; `MemWrite(addr, 1, v)` of R56. -/
def busStore (s : State) (a : Word) (v : Byte) : Except Fault State :=
  match route s a with
  | none => .error (.unmappedAddress a)
  | some .cartridge =>
    match cartStore s.par.bankOor s.cart a v with
    | .ok cart => .ok { s with cart := cart }
    | .error e => .error e
  | some (.region r) =>
    match regionStore unlistedByte r s.mem a v with
    | .ok mem => .ok { s with mem := mem }
    | .error e => .error e

/-- `MemRead(addr, 2)` of R57: low byte first; the first error is returned. -/
def load16 (s : State) (a : Word) : Except Fault Word :=
  match busLoad s a with
  | .error e => .error e
  | .ok lo =>
    match busLoad s (a + 1#16) with
    | .error e => .error e
    | .ok hi => .ok (mk16 hi lo)

/-- `MemWrite(addr, 2, v)` of R58: both stores are checked against the state before the first, then the low byte and
the high byte are stored. -/
def store16 (s : State) (a : Word) (v : Word) : Except Fault State :=
  match busStore s a (lo8 v) with
  | .error e => .error e
  | .ok s1 =>
    match busStore s (a + 1#16) (hi8 v) with
    | .error e => .error e
    | .ok _ => busStore s1 (a + 1#16) (hi8 v)

/-! ## Registers and pairs (10_state.md R20 to R24) -/

/-- `x[r]`. -/
def State.reg (s : State) : Reg8 → Byte
  | .A => s.a | .B => s.b | .C => s.c | .D => s.d | .E => s.e | .H => s.h | .L => s.l

/-- `x[r] <- v`. -/
def State.setReg (s : State) (r : Reg8) (v : Byte) : State :=
  match r with
  | .A => { s with a := v }
  | .B => { s with b := v }
  | .C => { s with c := v }
  | .D => { s with d := v }
  | .E => { s with e := v }
  | .H => { s with h := v }
  | .L => { s with l := v }

/-- The four flags written together. -/
def State.setF (s : State) (f : Flags) : State := { s with f := f }

/-- `sp <- v`. -/
def State.setSp (s : State) (v : Word) : State := { s with sp := v }

/-- `pc <- v`. -/
def State.setPc (s : State) (v : Word) : State := { s with pc := v }

/-- `Fbyte` of R24: Z, N, H, C in bits 7 to 4, bits 3 to 0 zero. -/
def Flags.toByte (f : Flags) : Byte :=
  BitVec.ofNat 8 (f.z.toNat * 0x80 + f.n.toNat * 0x40 + f.h.toNat * 0x20 + f.c.toNat * 0x10)

/-- Writing a byte to F (R24): bits 3 to 0 are discarded. -/
def Flags.ofByte (v : Byte) : Flags := ⟨v.getLsbD 7, v.getLsbD 6, v.getLsbD 5, v.getLsbD 4⟩

/-- `xx[BC]` (R22: the first-named register is the high byte). -/
def State.bc (s : State) : Word := mk16 s.b s.c

/-- `xx[DE]`. -/
def State.de (s : State) : Word := mk16 s.d s.e

/-- `xx[HL]`. -/
def State.hl (s : State) : Word := mk16 s.h s.l

/-- `xx[AF]`. -/
def State.af (s : State) : Word := mk16 s.a s.f.toByte

/-- `xx[BC] <- v`. -/
def State.setBc (s : State) (v : Word) : State := { s with b := hi8 v, c := lo8 v }

/-- `xx[DE] <- v`. -/
def State.setDe (s : State) (v : Word) : State := { s with d := hi8 v, e := lo8 v }

/-- `xx[HL] <- v`. -/
def State.setHl (s : State) (v : Word) : State := { s with h := hi8 v, l := lo8 v }

/-- `xx[AF] <- v`: the low byte through R24. -/
def State.setAf (s : State) (v : Word) : State := { s with a := hi8 v, f := Flags.ofByte (lo8 v) }

/-- A pair of the map `rp`, SP among them (30_encoding.md R105). -/
def State.rp (s : State) : Rp → Word
  | .BC => s.bc | .DE => s.de | .HL => s.hl | .SP => s.sp

/-- Writing a pair of the map `rp`. -/
def State.setRp (s : State) (rr : Rp) (v : Word) : State :=
  match rr with
  | .BC => s.setBc v | .DE => s.setDe v | .HL => s.setHl v | .SP => s.setSp v

/-- A pair of the map `rp2`, AF among them (30_encoding.md R105). -/
def State.rp2 (s : State) : Rp2 → Word
  | .BC => s.bc | .DE => s.de | .HL => s.hl | .AF => s.af

/-- Writing a pair of the map `rp2`. -/
def State.setRp2 (s : State) (rr : Rp2) (v : Word) : State :=
  match rr with
  | .BC => s.setBc v | .DE => s.setDe v | .HL => s.setHl v | .AF => s.setAf v

/-- `cond(cc)` of 30_encoding.md R106. -/
def Flags.cond (f : Flags) : Cond → Bool
  | .NZ => !f.z | .Z => f.z | .NC => !f.c | .C => f.c

/-! ## The stack (46_stack_call.md R240) -/

/-- `push16(v)`. -/
def push16 (s : State) (v : Word) : Except Fault State :=
  match store16 s (s.sp - 2#16) v with
  | .error e => .error e
  | .ok s1 => .ok (s1.setSp (s.sp - 2#16))

/-- `pop16()`: the word, and the state with `sp` raised. -/
def pop16 (s : State) : Except Fault (Word × State) :=
  match load16 s s.sp with
  | .error e => .error e
  | .ok v => .ok (v, s.setSp (s.sp + 2#16))

/-! ## Ending a step -/

/-- Taking an exception, the one operation (60_exceptions.md R304, R308): "An error saves nothing, changes no mode or
mask, pushes nothing on the stack and transfers control nowhere". The step ends with the error kind and no next state;
Machine/Port.lean says what state remains. There is no return from an exception (R309: RETI behaves as RET). -/
def raise (e : Fault) : Result := .fault e

/-- `npc` of 00_scope.md R8: the address after an instruction of `len` bytes, modulo 65536 (10_state.md R29). -/
def State.npc (s : State) (len : Nat) : Word := s.pc + BitVec.ofNat 16 len

/-- `pc <- npc`: an instruction of `len` bytes completes (10_state.md R28). No operation above changes `pc`, so the
`pc` of the state reached is still `pc0`. -/
def finish (len : Nat) (s : State) : Result := .next (s.setPc (s.npc len))

/-- `pc <- target`: a taken control transfer completes (R28). -/
def jumpTo (target : Word) (s : State) : Result := .next (s.setPc target)

/-- Goes on with what an access gave, or raises its error; nothing of the step is kept then (R304). -/
def andThen {α : Type} (x : Except Fault α) (k : α → Result) : Result :=
  match x with
  | .ok v => k v
  | .error e => raise e

end Sys2Proof.Machine
end

