-- ==== Sys2Proof/Machine/Flags.lean ====
section
/-! DEFINITION. Every result and flag computation of the instruction set: operands are taken as naturals, the exact
result is computed, and it is narrowed at the end. -/

namespace Sys2Proof.Machine

/-- The carry-in as H and C see it: 0 under `CARRY_IN_FLAG_MODE = excluded`, itself under `included` (42_alu8.md R170,
R171). -/
def flagCarry (mode : CarryInFlagMode) (cin : Bool) : Nat :=
  match mode with
  | .excluded => 0
  | .included => cin.toNat

/-- `add8(a, v, cin)` of 42_alu8.md R170. -/
def add8 (mode : CarryInFlagMode) (cin : Bool) (a v : Byte) : Byte × Flags :=
  let r : Byte := BitVec.ofNat 8 (a.toNat + v.toNat + cin.toNat)
  let k := flagCarry mode cin
  (r, { z := decide (r = 0#8)
        n := false
        h := decide (a.toNat % 16 + v.toNat % 16 + k > 0x0F)
        c := decide (a.toNat + v.toNat + k > 0xFF) })

/-- `sub8(a, v, cin)` of 42_alu8.md R171. -/
def sub8 (mode : CarryInFlagMode) (cin : Bool) (a v : Byte) : Byte × Flags :=
  let r : Byte := a - v - BitVec.ofNat 8 cin.toNat
  let k := flagCarry mode cin
  (r, { z := decide (r = 0#8)
        n := true
        h := decide (a.toNat % 16 < v.toNat % 16 + k)
        c := decide (a.toNat < v.toNat + k) })

/-- AND (42_alu8.md R184). -/
def and8 (a v : Byte) : Byte × Flags :=
  (a &&& v, { z := decide (a &&& v = 0#8), n := false, h := true, c := false })

/-- XOR (42_alu8.md R187). -/
def xor8 (a v : Byte) : Byte × Flags :=
  (a ^^^ v, { z := decide (a ^^^ v = 0#8), n := false, h := false, c := false })

/-- OR (42_alu8.md R190). -/
def or8 (a v : Byte) : Byte × Flags :=
  (a ||| v, { z := decide (a ||| v = 0#8), n := false, h := false, c := false })

/-- INC of 8 bits (42_alu8.md R196): C unchanged. -/
def inc8 (f : Flags) (v : Byte) : Byte × Flags :=
  (v + 1#8, { z := decide (v + 1#8 = 0#8), n := false, h := decide (v.toNat % 16 + 1 > 0x0F), c := f.c })

/-- DEC of 8 bits (42_alu8.md R198): C unchanged. -/
def dec8 (f : Flags) (v : Byte) : Byte × Flags :=
  (v - 1#8, { z := decide (v - 1#8 = 0#8), n := true, h := decide (v.toNat % 16 < 1), c := f.c })

/-- `ADD HL,rr` (43_alu16.md R202): carries out of bits 11 and 15, Z unchanged. -/
def addHL16 (f : Flags) (a v : Word) : Word × Flags :=
  (a + v, { z := f.z
            n := false
            h := decide (a.toNat % 0x1000 + v.toNat % 0x1000 > 0x0FFF)
            c := decide (a.toNat + v.toNat > 0xFFFF) })

/-- `sp + e8` (43_alu16.md R203, 41_load16.md R163): H and C from the unsigned addition of the low byte of `sp` and
the byte `o1`, Z and N cleared. -/
def spPlus (sp : Word) (e8 : Byte) : Word × Flags :=
  (sp + sext16 e8, { z := false
                     n := false
                     h := decide (sp.toNat % 16 + e8.toNat % 16 > 0x0F)
                     c := decide (sp.toNat % 256 + e8.toNat > 0xFF) })

/-! ## Rotates and shifts (44_rotate_shift.md): `(v, cin) -> (r, cout)` -/

/-- R210. -/
def rlcOp (v : Byte) : Byte × Bool := ((v <<< 1) ||| (v >>> 7), v.getLsbD 7)

/-- R211. -/
def rrcOp (v : Byte) : Byte × Bool := ((v >>> 1) ||| (v <<< 7), v.getLsbD 0)

/-- R212. -/
def rlOp (cin : Bool) (v : Byte) : Byte × Bool := ((v <<< 1) ||| BitVec.ofNat 8 cin.toNat, v.getLsbD 7)

/-- R213. -/
def rrOp (cin : Bool) (v : Byte) : Byte × Bool := ((v >>> 1) ||| (BitVec.ofNat 8 cin.toNat <<< 7), v.getLsbD 0)

/-- R214. -/
def slaOp (v : Byte) : Byte × Bool := (v <<< 1, v.getLsbD 7)

/-- R215. -/
def sraOp (v : Byte) : Byte × Bool := ((v >>> 1) ||| (v &&& 0x80#8), v.getLsbD 0)

/-- R216. -/
def swapOp (v : Byte) : Byte × Bool := (((v &&& 0x0F#8) <<< 4) ||| (v >>> 4), false)

/-- R217. -/
def srlOp (v : Byte) : Byte × Bool := (v >>> 1, v.getLsbD 0)

/-- The flags of the eight extended operations (R222): Z from the result, N = H = 0, C the bit moved out. -/
def rotateFlags (r : Byte × Bool) : Byte × Flags :=
  (r.1, { z := decide (r.1 = 0#8), n := false, h := false, c := r.2 })

/-- The flags of RLCA, RLA, RRCA, RRA (R218 to R221): Z is cleared. -/
def rotateAFlags (r : Byte × Bool) : Byte × Flags :=
  (r.1, { z := false, n := false, h := false, c := r.2 })

/-! ## Bits (45_bit.md) -/

/-- The flags of BIT (R230): Z is 1 exactly when the bit is 0, C unchanged. -/
def bitFlags (f : Flags) (b : Fin 8) (v : Byte) : Flags :=
  { z := !v.getLsbD b, n := false, h := true, c := f.c }

/-- RES (R231). -/
def resBit (b : Fin 8) (v : Byte) : Byte := v &&& ~~~(1#8 <<< b.val)

/-- SET (R232). -/
def setBit (b : Fin 8) (v : Byte) : Byte := v ||| (1#8 <<< b.val)

/-! ## DAA (48_misc.md R276) -/

/-- The correction R276 adds after an addition: 0x60 and 0x06, each on its own condition. -/
def daaUp (f : Flags) (a : Byte) : Nat :=
  (if f.c = true ∨ a.toNat > 0x99 then 0x60 else 0) + (if f.h = true ∨ a.toNat % 16 > 9 then 0x06 else 0)

/-- The correction R276 subtracts after a subtraction: by C and H alone. -/
def daaDown (f : Flags) : Nat := (if f.c = true then 0x60 else 0) + (if f.h = true then 0x06 else 0)

/-- DAA (R276): N unchanged, C set when an addition was corrected by 0x60, else kept. -/
def daa8 (f : Flags) (a : Byte) : Byte × Flags :=
  let r : Byte := if f.n then a - BitVec.ofNat 8 (daaDown f) else a + BitVec.ofNat 8 (daaUp f a)
  (r, { z := decide (r = 0#8)
        n := f.n
        h := false
        c := f.c || (!f.n && decide (a.toNat > 0x99)) })

end Sys2Proof.Machine
end

