-- ==== Sys2Proof/Machine/Operands.lean ====
section
/-! DEFINITION. Operand selectors and their reads and writes (spec/30_encoding.md R108). -/

namespace Sys2Proof.Machine

/-- `Target` of R108, for 8-bit operands: a register, an immediate, the memory byte at HL, or that byte with HL
raised or lowered afterwards. -/
inductive Target where
  | reg (r : Reg8)
  | imm (d8 : Byte)
  | hlInd
  | hlInc
  | hlDec
  deriving DecidableEq, Repr

/-- The selector of an `r8` field value (R104). -/
def selTarget : Sel8 → Target
  | .reg r => .reg r
  | .hlInd => .hlInd

/-- `rd8(t)` of R108, the value only. -/
def rd8 (s : State) : Target → Except Fault Byte
  | .reg r => .ok (s.reg r)
  | .imm d8 => .ok d8
  | .hlInd | .hlInc | .hlDec => busLoad s s.hl

/-- `wr8(t, v)` of R108, the value only. An immediate cannot be written: "surfaced immediately and never silently
defaulted", InvalidOperand (60_exceptions.md R305). -/
def wr8 (s : State) (t : Target) (v : Byte) : Except Fault State :=
  match t with
  | .reg r => .ok (s.setReg r v)
  | .imm _ => .error .invalidOperand
  | .hlInd | .hlInc | .hlDec => busStore s s.hl v

/-- The post-modification of HL "when the instruction completes" (R108), modulo 65536. -/
def postMod (t : Target) (s : State) : State :=
  match t with
  | .hlInc => s.setHl (s.hl + 1#16)
  | .hlDec => s.setHl (s.hl - 1#16)
  | .reg _ | .imm _ | .hlInd => s

/-- An 8-bit load: the source is read, the destination written, HL modified where a selector says so; no flag is
written (40_load8.md). -/
def move8 (len : Nat) (dst src : Target) (s : State) : Result :=
  andThen (rd8 s src) fun v =>
  andThen (wr8 s dst v) fun s1 =>
  finish len (postMod dst (postMod src s1))

/-- A load of A from an address given by the instruction (40_load8.md, tier X). -/
def loadA (len : Nat) (addr : Word) (s : State) : Result :=
  andThen (busLoad s addr) fun v => finish len (s.setReg .A v)

/-- A store of A to an address given by the instruction (40_load8.md, tier X). -/
def storeA (len : Nat) (addr : Word) (s : State) : Result :=
  andThen (busStore s addr s.a) fun s1 => finish len s1

/-- The address `0xFF00 + o` of 40_load8.md R145 to R148. -/
def highPage (o : Byte) : Word := 0xFF00#16 + zext16 o

/-- A read-modify-write of an 8-bit operand: read, then write at the same target, then the flags; "if the write
fails the step fails and no flag is written" (44_rotate_shift.md R222). -/
def modify8 (len : Nat) (t : Target) (g : Byte → Byte × Flags) (s : State) : Result :=
  andThen (rd8 s t) fun v =>
  andThen (wr8 s t (g v).1) fun s1 =>
  finish len (s1.setF (g v).2)

/-- An 8-bit operation on A and an operand, its result to A and its flags to F (42_alu8.md). -/
def accumulate (len : Nat) (t : Target) (g : Byte → Byte → Byte × Flags) (s : State) : Result :=
  andThen (rd8 s t) fun v =>
  finish len ((s.setReg .A (g s.a v).1).setF (g s.a v).2)

/-- The same with the result discarded: A is not written (42_alu8.md R193). -/
def compareA (len : Nat) (t : Target) (g : Byte → Byte → Byte × Flags) (s : State) : Result :=
  andThen (rd8 s t) fun v => finish len (s.setF (g s.a v).2)

end Sys2Proof.Machine
end

