-- ==== Sys2Proof/Machine/Alu16.lean ====
section
/-! DEFINITION. 16-bit increment, decrement and addition (spec/43_alu16.md). -/

namespace Sys2Proof.Machine

/-- `INC rr` (R200). -/
def execIncRr (rr : Rp) (s : State) : Result := finish 1 (s.setRp rr (s.rp rr + 1#16))

/-- `DEC rr` (R201). -/
def execDecRr (rr : Rp) (s : State) : Result := finish 1 (s.setRp rr (s.rp rr - 1#16))

/-- `ADD HL,rr` (R202). -/
def execAddHLRr (rr : Rp) (s : State) : Result :=
  finish 1 ((s.setHl (addHL16 s.f s.hl (s.rp rr)).1).setF (addHL16 s.f s.hl (s.rp rr)).2)

/-- `ADD SP,e8` (R203). -/
def execAddSPE8 (e8 : Byte) (s : State) : Result :=
  finish 2 ((s.setSp (spPlus s.sp e8).1).setF (spPlus s.sp e8).2)

end Sys2Proof.Machine
end

