-- ==== Sys2Proof/Machine/Alu8.lean ====
section
/-! DEFINITION. 8-bit arithmetic, logic, compare, increment and decrement (spec/42_alu8.md). The first operand and the
destination of the eight ALU operations is A. -/

namespace Sys2Proof.Machine

/-- `ADD A,r` (R172). -/
def execAddAR (r : Reg8) (s : State) : Result := accumulate 1 (.reg r) (add8 s.par.carryIn false) s

/-- `ADD A,(HL)` (R173). -/
def execAddAHL (s : State) : Result := accumulate 1 .hlInd (add8 s.par.carryIn false) s

/-- `ADD A,d8` (R174). -/
def execAddAD8 (d8 : Byte) (s : State) : Result := accumulate 2 (.imm d8) (add8 s.par.carryIn false) s

/-- `ADC A,r` (R175). -/
def execAdcAR (r : Reg8) (s : State) : Result := accumulate 1 (.reg r) (add8 s.par.carryIn s.f.c) s

/-- `ADC A,(HL)` (R176). -/
def execAdcAHL (s : State) : Result := accumulate 1 .hlInd (add8 s.par.carryIn s.f.c) s

/-- `ADC A,d8` (R177). -/
def execAdcAD8 (d8 : Byte) (s : State) : Result := accumulate 2 (.imm d8) (add8 s.par.carryIn s.f.c) s

/-- `SUB r` (R178). -/
def execSubR (r : Reg8) (s : State) : Result := accumulate 1 (.reg r) (sub8 s.par.carryIn false) s

/-- `SUB (HL)` (R179). -/
def execSubHL (s : State) : Result := accumulate 1 .hlInd (sub8 s.par.carryIn false) s

/-- `SUB d8` (R180). -/
def execSubD8 (d8 : Byte) (s : State) : Result := accumulate 2 (.imm d8) (sub8 s.par.carryIn false) s

/-- `SBC A,r` (R181). -/
def execSbcAR (r : Reg8) (s : State) : Result := accumulate 1 (.reg r) (sub8 s.par.carryIn s.f.c) s

/-- `SBC A,(HL)` (R182). -/
def execSbcAHL (s : State) : Result := accumulate 1 .hlInd (sub8 s.par.carryIn s.f.c) s

/-- `SBC A,d8` (R183). -/
def execSbcAD8 (d8 : Byte) (s : State) : Result := accumulate 2 (.imm d8) (sub8 s.par.carryIn s.f.c) s

/-- `AND r` (R184). -/
def execAndR (r : Reg8) (s : State) : Result := accumulate 1 (.reg r) and8 s

/-- `AND (HL)` (R185). -/
def execAndHL (s : State) : Result := accumulate 1 .hlInd and8 s

/-- `AND d8` (R186). -/
def execAndD8 (d8 : Byte) (s : State) : Result := accumulate 2 (.imm d8) and8 s

/-- `XOR r` (R187). -/
def execXorR (r : Reg8) (s : State) : Result := accumulate 1 (.reg r) xor8 s

/-- `XOR (HL)` (R188). -/
def execXorHL (s : State) : Result := accumulate 1 .hlInd xor8 s

/-- `XOR d8` (R189). -/
def execXorD8 (d8 : Byte) (s : State) : Result := accumulate 2 (.imm d8) xor8 s

/-- `OR r` (R190). -/
def execOrR (r : Reg8) (s : State) : Result := accumulate 1 (.reg r) or8 s

/-- `OR (HL)` (R191). -/
def execOrHL (s : State) : Result := accumulate 1 .hlInd or8 s

/-- `OR d8` (R192). -/
def execOrD8 (d8 : Byte) (s : State) : Result := accumulate 2 (.imm d8) or8 s

/-- `CP r` (R193). -/
def execCpR (r : Reg8) (s : State) : Result := compareA 1 (.reg r) (sub8 s.par.carryIn false) s

/-- `CP (HL)` (R194). -/
def execCpHL (s : State) : Result := compareA 1 .hlInd (sub8 s.par.carryIn false) s

/-- `CP d8` (R195). -/
def execCpD8 (d8 : Byte) (s : State) : Result := compareA 2 (.imm d8) (sub8 s.par.carryIn false) s

/-- `INC r` (R196). -/
def execIncR (r : Reg8) (s : State) : Result := modify8 1 (.reg r) (inc8 s.f) s

/-- `INC (HL)` (R197). -/
def execIncHL (s : State) : Result := modify8 1 .hlInd (inc8 s.f) s

/-- `DEC r` (R198). -/
def execDecR (r : Reg8) (s : State) : Result := modify8 1 (.reg r) (dec8 s.f) s

/-- `DEC (HL)` (R199). -/
def execDecHL (s : State) : Result := modify8 1 .hlInd (dec8 s.f) s

end Sys2Proof.Machine
end

