-- ==== Sys2Proof/Machine/Jump.lean ====
section
/-! DEFINITION. Jumps (spec/47_jump.md). "No jump writes a flag, accesses data memory or touches `sp`. No jump checks
its target". -/

namespace Sys2Proof.Machine

/-- `npc +16 sext_16(e8)` with `npc = pc0 +16 2` (R260). -/
def relTarget (e8 : Byte) (s : State) : Word := s.npc 2 + sext16 e8

/-- `JR e8` (R260). -/
def execJrE8 (e8 : Byte) (s : State) : Result := jumpTo (relTarget e8 s) s

/-- `JR cc,e8` (R261). -/
def execJrCcE8 (cc : Cond) (e8 : Byte) (s : State) : Result :=
  if s.f.cond cc then jumpTo (relTarget e8 s) s else finish 2 s

/-- `JP a16` (R262). -/
def execJpA16 (a16 : Word) (s : State) : Result := jumpTo a16 s

/-- `JP cc,a16` (R263). -/
def execJpCcA16 (cc : Cond) (a16 : Word) (s : State) : Result :=
  if s.f.cond cc then jumpTo a16 s else finish 3 s

/-- `JP HL` (R264). -/
def execJpHL (s : State) : Result := jumpTo s.hl s

end Sys2Proof.Machine
end

