-- ==== Sys2Proof/Machine/Load16.lean ====
section
/-! DEFINITION. 16-bit loads (spec/41_load16.md). -/

namespace Sys2Proof.Machine

/-- `LD rr,d16` (R160). -/
def execLdRrD16 (rr : Rp) (d16 : Word) (s : State) : Result := finish 3 (s.setRp rr d16)

/-- `LD (a16),SP` (R161). -/
def execLdA16SP (a16 : Word) (s : State) : Result := andThen (store16 s a16 s.sp) fun s1 => finish 3 s1

/-- `LD SP,HL` (R162). -/
def execLdSPHL (s : State) : Result := finish 1 (s.setSp s.hl)

/-- `LD HL,SP+e8` (R163). -/
def execLdHLSPE8 (e8 : Byte) (s : State) : Result :=
  finish 2 ((s.setHl (spPlus s.sp e8).1).setF (spPlus s.sp e8).2)

end Sys2Proof.Machine
end

