-- ==== Sys2Proof/Machine/Load8.lean ====
section
/-! DEFINITION. 8-bit loads (spec/40_load8.md): "it never writes a flag, never touches `sp`, never reads or
writes more than one data byte, and never sign-extends" (R149). -/

namespace Sys2Proof.Machine

/-- `LD r,r'` (R130). -/
def execLdRR (r r' : Reg8) (s : State) : Result := move8 1 (.reg r) (.reg r') s

/-- `LD r,d8` (R131). -/
def execLdRD8 (r : Reg8) (d8 : Byte) (s : State) : Result := move8 2 (.reg r) (.imm d8) s

/-- `LD r,(HL)` (R132). -/
def execLdRHL (r : Reg8) (s : State) : Result := move8 1 (.reg r) .hlInd s

/-- `LD (HL),r` (R133). -/
def execLdHLR (r : Reg8) (s : State) : Result := move8 1 .hlInd (.reg r) s

/-- `LD (HL),d8` (R134). -/
def execLdHLD8 (d8 : Byte) (s : State) : Result := move8 2 .hlInd (.imm d8) s

/-- `LD (HL+),A` (R135). -/
def execLdHLIncA (s : State) : Result := move8 1 .hlInc (.reg .A) s

/-- `LD (HL-),A` (R136). -/
def execLdHLDecA (s : State) : Result := move8 1 .hlDec (.reg .A) s

/-- `LD A,(HL+)` (R137). -/
def execLdAHLInc (s : State) : Result := move8 1 (.reg .A) .hlInc s

/-- `LD A,(HL-)` (R138). -/
def execLdAHLDec (s : State) : Result := move8 1 (.reg .A) .hlDec s

/-- `LD (BC),A` (R139). -/
def execLdBCA (s : State) : Result := storeA 1 s.bc s

/-- `LD (DE),A` (R140). -/
def execLdDEA (s : State) : Result := storeA 1 s.de s

/-- `LD A,(BC)` (R141). -/
def execLdABC (s : State) : Result := loadA 1 s.bc s

/-- `LD A,(DE)` (R142). -/
def execLdADE (s : State) : Result := loadA 1 s.de s

/-- `LD (a16),A` (R143). -/
def execLdA16A (a16 : Word) (s : State) : Result := storeA 3 a16 s

/-- `LD A,(a16)` (R144). -/
def execLdAA16 (a16 : Word) (s : State) : Result := loadA 3 a16 s

/-- `LDH (a8),A` (R145). -/
def execLdhA8A (a8 : Byte) (s : State) : Result := storeA 2 (highPage a8) s

/-- `LDH A,(a8)` (R146). -/
def execLdhAA8 (a8 : Byte) (s : State) : Result := loadA 2 (highPage a8) s

/-- `LD (C),A` (R147). -/
def execLdCA (s : State) : Result := storeA 1 (highPage s.c) s

/-- `LD A,(C)` (R148). -/
def execLdAC (s : State) : Result := loadA 1 (highPage s.c) s

end Sys2Proof.Machine
end

