-- ==== Sys2Proof/Machine/Misc.lean ====
section
/-! DEFINITION. Miscellaneous instructions and the undefined bytes (spec/48_misc.md). -/

namespace Sys2Proof.Machine

/-- HALT and STOP (R277, R278): under `stuck` the step succeeds with no state change, `pc` left at `pc0`; by default
the byte misses the table, so that the step never comes here (Machine/Fetch.lean) and an instruction value put here
otherwise raises what the step raises. -/
def haltOrMiss (op : Byte) (s : State) : Result :=
  match s.par.haltStop with
  | .stuck => .next s
  | .unknownOpcode => raise (.unknownOpcode op)

/-- An undefined primary byte (R280): `raise UnknownOpcode(b0)`, nothing changes. -/
def undefinedByte (op : Byte) (_s : State) : Result := raise (.unknownOpcode op)

/-- `NOP` (R270). -/
def execNop (s : State) : Result := finish 1 s

/-- `DI` (R271). -/
def execDi (s : State) : Result := finish 1 s

/-- `EI` (R272). -/
def execEi (s : State) : Result := finish 1 s

/-- `CPL` (R273). -/
def execCpl (s : State) : Result :=
  finish 1 ((s.setReg .A (s.a ^^^ 0xFF#8)).setF { s.f with n := true, h := true })

/-- `CCF` (R274). -/
def execCcf (s : State) : Result := finish 1 (s.setF { s.f with n := false, h := false, c := !s.f.c })

/-- `SCF` (R275). -/
def execScf (s : State) : Result := finish 1 (s.setF { s.f with n := false, h := false, c := true })

/-- `DAA` (R276). -/
def execDaa (s : State) : Result := finish 1 ((s.setReg .A (daa8 s.f s.a).1).setF (daa8 s.f s.a).2)

/-- `HALT` (R277). -/
def execHalt (s : State) : Result := haltOrMiss 0x76#8 s

/-- `STOP` (R278). -/
def execStop (_pad : Byte) (s : State) : Result := haltOrMiss 0x10#8 s

/-- `(undefined 0xD3)` (R280). -/
def execUndefD3 (s : State) : Result := undefinedByte 0xD3#8 s

/-- `(undefined 0xDB)` (R280). -/
def execUndefDB (s : State) : Result := undefinedByte 0xDB#8 s

/-- `(undefined 0xDD)` (R280). -/
def execUndefDD (s : State) : Result := undefinedByte 0xDD#8 s

/-- `(undefined 0xE3)` (R280). -/
def execUndefE3 (s : State) : Result := undefinedByte 0xE3#8 s

/-- `(undefined 0xE4)` (R280). -/
def execUndefE4 (s : State) : Result := undefinedByte 0xE4#8 s

/-- `(undefined 0xEB)` (R280). -/
def execUndefEB (s : State) : Result := undefinedByte 0xEB#8 s

/-- `(undefined 0xEC)` (R280). -/
def execUndefEC (s : State) : Result := undefinedByte 0xEC#8 s

/-- `(undefined 0xED)` (R280). -/
def execUndefED (s : State) : Result := undefinedByte 0xED#8 s

/-- `(undefined 0xF4)` (R280). -/
def execUndefF4 (s : State) : Result := undefinedByte 0xF4#8 s

/-- `(undefined 0xFC)` (R280). -/
def execUndefFC (s : State) : Result := undefinedByte 0xFC#8 s

/-- `(undefined 0xFD)` (R280). -/
def execUndefFD (s : State) : Result := undefinedByte 0xFD#8 s

end Sys2Proof.Machine
end

