-- ==== Sys2Proof/WellFormed.lean ====
section
/-! DEFINITION. Well-formed instructions. Every operand is typed by its field map, so the one check left is the prefix
row: PREFIX CB "is not an instruction: it selects the extended table for the byte after it" (spec/48_misc.md R279),
so its one byte is never a whole instruction. -/

namespace Sys2Proof

/-- A whole instruction: anything but the bare prefix (48_misc.md R279). -/
abbrev Instr.WellFormed (i : Instr) : Prop := i ≠ .prefixCB

end Sys2Proof
end

