-- ==== Sys2Proof/Decode.lean ====
section
/-! DEFINITION. The two decoder tables of spec/30_encoding.md (R100 to R113), total on any bytes, and after them the
encoder. Three layers: `primaryRow` and `decodeExtended` say which row of opcode_table.json a byte stands for (the grids
of R109 and R111); `Instr.decodes` says whether that row is in the primary table under the parameters (R110, R112, R277,
R278), so that `decodePrimary` is the spec's `decode_primary` with its misses; `decodeRow` and `decode` read a list of
bytes, the second with the misses, both rejecting by name. The step fetches through the same functions
(Machine/Fetch.lean). Every byte value is the spec's own `[from general knowledge, not in source]` (log entry 14). -/

namespace Sys2Proof

/-! ## Field maps (R104 to R107) -/

/-- The field map `r8` (R104). -/
def sel8Of : Fin 8 → Sel8
  | 0 => .reg .B | 1 => .reg .C | 2 => .reg .D | 3 => .reg .E
  | 4 => .reg .H | 5 => .reg .L | 6 => .hlInd  | 7 => .reg .A

/-- The field map `rp` (R105). -/
def rpOf : Fin 4 → Rp
  | 0 => .BC | 1 => .DE | 2 => .HL | 3 => .SP

/-- The field map `rp2` (R105). -/
def rp2Of : Fin 4 → Rp2
  | 0 => .BC | 1 => .DE | 2 => .HL | 3 => .AF

/-- The conditions (R106). -/
def condOf : Fin 4 → Cond
  | 0 => .NZ | 1 => .Z | 2 => .NC | 3 => .C

/-! ## The primary table (R109) -/

/-- Opcodes 0x80 to 0xBF: the ALU operation `y` (R107) on `r8[z]`. -/
def aluRow : Fin 8 → Sel8 → Instr
  | 0, .reg r => .addAR r | 0, .hlInd => .addAHL
  | 1, .reg r => .adcAR r | 1, .hlInd => .adcAHL
  | 2, .reg r => .subR r  | 2, .hlInd => .subHL
  | 3, .reg r => .sbcAR r | 3, .hlInd => .sbcAHL
  | 4, .reg r => .andR r  | 4, .hlInd => .andHL
  | 5, .reg r => .xorR r  | 5, .hlInd => .xorHL
  | 6, .reg r => .orR r   | 6, .hlInd => .orHL
  | 7, .reg r => .cpR r   | 7, .hlInd => .cpHL

/-- The ALU operation `y` (R107) on an immediate: opcodes `11yyy110`. -/
def aluD8Row : Fin 8 → Byte → Instr
  | 0, d => .addAD8 d | 1, d => .adcAD8 d | 2, d => .subD8 d | 3, d => .sbcAD8 d
  | 4, d => .andD8 d  | 5, d => .xorD8 d  | 6, d => .orD8 d  | 7, d => .cpD8 d

/-- Opcodes 0x40 to 0x7F: the loads between registers and `(HL)`, with HALT in the slot of `LD (HL),(HL)`. -/
def loadRow : Sel8 → Sel8 → Instr
  | .reg d, .reg s => .ldRR d s
  | .reg d, .hlInd => .ldRHL d
  | .hlInd, .reg s => .ldHLR s
  | .hlInd, .hlInd => .halt

/-- Opcodes 0x00 to 0x3F by their low three bits `z` and `y`; `cc = op[4:3]`, `p = op[5:4]`. -/
def rowX0 (op o1 o2 : Byte) : Instr :=
  let p := rpOf (field2 op 4)
  match field3 op 0, field3 op 3 with
  | 0, 0 => .nop
  | 0, 1 => .ldA16SP (mk16 o2 o1)
  | 0, 2 => .stop o1
  | 0, 3 => .jrE8 o1
  | 0, _ => .jrCcE8 (condOf (field2 op 3)) o1
  | 1, y => if y.val % 2 = 0 then .ldRrD16 p (mk16 o2 o1) else .addHLRr p
  | 2, 0 => .ldBCA
  | 2, 1 => .ldABC
  | 2, 2 => .ldDEA
  | 2, 3 => .ldADE
  | 2, 4 => .ldHLIncA
  | 2, 5 => .ldAHLInc
  | 2, 6 => .ldHLDecA
  | 2, 7 => .ldAHLDec
  | 3, y => if y.val % 2 = 0 then .incRr p else .decRr p
  | 4, y => match sel8Of y with | .reg r => .incR r | .hlInd => .incHL
  | 5, y => match sel8Of y with | .reg r => .decR r | .hlInd => .decHL
  | 6, y => match sel8Of y with | .reg r => .ldRD8 r o1 | .hlInd => .ldHLD8 o1
  | 7, 0 => .rlca
  | 7, 1 => .rrca
  | 7, 2 => .rla
  | 7, 3 => .rra
  | 7, 4 => .daa
  | 7, 5 => .cpl
  | 7, 6 => .scf
  | 7, 7 => .ccf

/-- Opcodes 0xC0 to 0xFF by `z` and `y`; `cc = op[4:3]`, `p = op[5:4]`. -/
def rowX3 (op o1 o2 : Byte) : Instr :=
  let p := rp2Of (field2 op 4)
  let cc := condOf (field2 op 3)
  match field3 op 0, field3 op 3 with
  | 0, 4 => .ldhA8A o1
  | 0, 5 => .addSPE8 o1
  | 0, 6 => .ldhAA8 o1
  | 0, 7 => .ldHLSPE8 o1
  | 0, _ => .retCc cc
  | 1, 1 => .ret
  | 1, 3 => .reti
  | 1, 5 => .jpHL
  | 1, 7 => .ldSPHL
  | 1, _ => .popRr p
  | 2, 4 => .ldCA
  | 2, 5 => .ldA16A (mk16 o2 o1)
  | 2, 6 => .ldAC
  | 2, 7 => .ldAA16 (mk16 o2 o1)
  | 2, _ => .jpCcA16 cc (mk16 o2 o1)
  | 3, 0 => .jpA16 (mk16 o2 o1)
  | 3, 1 => .prefixCB
  | 3, 2 => .undefD3
  | 3, 3 => .undefDB
  | 3, 4 => .undefE3
  | 3, 5 => .undefEB
  | 3, 6 => .di
  | 3, 7 => .ei
  | 4, 4 => .undefE4
  | 4, 5 => .undefEC
  | 4, 6 => .undefF4
  | 4, 7 => .undefFC
  | 4, _ => .callCcA16 cc (mk16 o2 o1)
  | 5, 1 => .callA16 (mk16 o2 o1)
  | 5, 3 => .undefDD
  | 5, 5 => .undefED
  | 5, 7 => .undefFD
  | 5, _ => .pushRr p
  | 6, y => aluD8Row y o1
  | 7, y => .rstN y

/-- The cell of the 16 x 16 grid of R109 for the byte `op`, with its operand bytes `o1`, `o2` (R103; a one-byte row
reads neither). Total: the prefix cell is `prefixCB`, an undefined cell its own row. -/
def primaryRow (op o1 o2 : Byte) : Instr :=
  match field2 op 6 with
  | 0 => rowX0 op o1 o2
  | 1 => loadRow (sel8Of (field3 op 3)) (sel8Of (field3 op 0))
  | 2 => aluRow (field3 op 3) (sel8Of (field3 op 0))
  | 3 => rowX3 op o1 o2

/-! ## The extended table (R111) -/

/-- Extended opcodes 0x00 to 0x3F: the rotate or shift `y` (R107). -/
def rotateRow : Fin 8 → Sel8 → Instr
  | 0, t => .rlcT t | 1, t => .rrcT t | 2, t => .rlT t   | 3, t => .rrT t
  | 4, t => .slaT t | 5, t => .sraT t | 6, t => .swapT t | 7, t => .srlT t

/-- `decode_extended(b1)` of R111: total over the 256 second bytes. -/
def decodeExtended (b1 : Byte) : Instr :=
  match field2 b1 6 with
  | 0 => rotateRow (field3 b1 3) (sel8Of (field3 b1 0))
  | 1 => .bitBT (field3 b1 3) (sel8Of (field3 b1 0))
  | 2 => .resBT (field3 b1 3) (sel8Of (field3 b1 0))
  | 3 => .setBT (field3 b1 3) (sel8Of (field3 b1 0))

/-! ## Static metadata: tier and length -/

/-- The tier of a row (00_scope.md R10, 30_encoding.md R110); the prefix and the undefined rows are no instruction. -/
inductive Tier where
  | S
  | X
  | noInstr
  deriving DecidableEq, Repr

/-- The tier of every row, as R110 lists them. -/
def Instr.tier : Instr → Tier
  | .prefixCB | .undefD3 | .undefDB | .undefDD | .undefE3 | .undefE4 | .undefEB | .undefEC | .undefED
  | .undefF4 | .undefFC | .undefFD => .noInstr
  | .ldA16SP _ | .stop _ | .addHLRr _ | .ldBCA | .ldDEA | .ldABC | .ldADE | .rlca | .rrca | .rla | .rra
  | .daa | .scf | .halt | .ldhA8A _ | .ldhAA8 _ | .addSPE8 _ | .ldHLSPE8 _ | .reti | .jpHL | .ldSPHL | .ldCA
  | .ldAC | .ldA16A _ | .ldAA16 _ => .X
  | .nop | .jrE8 _ | .jrCcE8 _ _ | .ldRrD16 _ _ | .ldHLIncA | .ldHLDecA | .ldAHLInc | .ldAHLDec | .incRr _
  | .decRr _ | .incR _ | .incHL | .decR _ | .decHL | .ldRD8 _ _ | .ldHLD8 _ | .cpl | .ccf | .ldRR _ _
  | .ldRHL _ | .ldHLR _ | .addAR _ | .addAHL | .adcAR _ | .adcAHL | .subR _ | .subHL | .sbcAR _ | .sbcAHL
  | .andR _ | .andHL | .xorR _ | .xorHL | .orR _ | .orHL | .cpR _ | .cpHL | .addAD8 _ | .adcAD8 _ | .subD8 _
  | .sbcAD8 _ | .andD8 _ | .xorD8 _ | .orD8 _ | .cpD8 _ | .retCc _ | .popRr _ | .ret | .jpCcA16 _ _
  | .jpA16 _ | .di | .ei | .callCcA16 _ _ | .pushRr _ | .callA16 _ | .rstN _ | .rlcT _ | .rrcT _ | .rlT _
  | .rrT _ | .slaT _ | .sraT _ | .swapT _ | .srlT _ | .bitBT _ _ | .resBT _ _ | .setBT _ _ => .S

/-- The length in bytes of every row (R101; 95_test_vectors.md part 13). An extended instruction counts its prefix; for
an undefined byte and the bare prefix it is the one byte itself (log entry 9). -/
def Instr.length : Instr → Nat
  | .nop | .addHLRr _ | .ldBCA | .ldDEA | .ldHLIncA | .ldHLDecA | .ldABC | .ldADE | .ldAHLInc | .ldAHLDec
  | .incRr _ | .decRr _ | .incR _ | .incHL | .decR _ | .decHL | .rlca | .rrca | .rla | .rra | .daa | .cpl
  | .scf | .ccf | .ldRR _ _ | .ldRHL _ | .ldHLR _ | .halt | .addAR _ | .addAHL | .adcAR _ | .adcAHL | .subR _
  | .subHL | .sbcAR _ | .sbcAHL | .andR _ | .andHL | .xorR _ | .xorHL | .orR _ | .orHL | .cpR _ | .cpHL
  | .retCc _ | .popRr _ | .ret | .reti | .jpHL | .ldSPHL | .ldCA | .ldAC | .prefixCB | .di | .ei | .pushRr _
  | .rstN _ | .undefD3 | .undefDB | .undefDD | .undefE3 | .undefE4 | .undefEB | .undefEC | .undefED
  | .undefF4 | .undefFC | .undefFD => 1
  | .stop _ | .jrE8 _ | .jrCcE8 _ _ | .ldRD8 _ _ | .ldHLD8 _ | .addAD8 _ | .adcAD8 _ | .subD8 _ | .sbcAD8 _
  | .andD8 _ | .xorD8 _ | .orD8 _ | .cpD8 _ | .ldhA8A _ | .ldhAA8 _ | .addSPE8 _ | .ldHLSPE8 _ | .rlcT _
  | .rrcT _ | .rlT _ | .rrT _ | .slaT _ | .sraT _ | .swapT _ | .srlT _ | .bitBT _ _ | .resBT _ _ | .setBT _ _ => 2
  | .ldA16SP _ | .ldRrD16 _ _ | .jpCcA16 _ _ | .ldA16A _ | .ldAA16 _ | .jpA16 _ | .callCcA16 _ _ | .callA16 _ => 3

/-- Whether the row is an entry of its table under the parameters: no undefined byte and no bare prefix (R112, R279);
a tier X row only under `reference_full` (R110); HALT and STOP only under `HALT_STOP_MODE = stuck` too (R277, R278). -/
def Instr.decodes (p : Params) (i : Instr) : Bool :=
  match i.tier with
  | .noInstr => false
  | .S => true
  | .X => decide (p.extent = .referenceFull) && match i with
    | .halt | .stop _ => decide (p.haltStop = .stuck)
    | _ => true

/-- `decode_primary(b0)` of R109, R110, R112: `none` is the miss that the step reports as UnknownOpcode. -/
def decodePrimary (p : Params) (op o1 o2 : Byte) : Option Instr :=
  if (primaryRow op o1 o2).decodes p then some (primaryRow op o1 o2) else none

/-! ## Reading a list of bytes -/

/-- Why a list of bytes is no instruction. -/
inductive DecodeError where
  /-- The bytes run out before the instruction is whole. -/
  | truncated
  /-- The first byte misses the primary table under the parameters (R112). -/
  | unknownOpcode (b0 : Byte)
  deriving DecidableEq, Repr

/-- The rest of an instruction whose first byte, not the prefix, has been read: `length - 1` operand bytes (R103). -/
def readOperands (op : Byte) (rest : List Byte) : Except DecodeError (Instr × List Byte) :=
  match (primaryRow op 0#8 0#8).length, rest with
  | 1, r => .ok (primaryRow op 0#8 0#8, r)
  | 2, o1 :: r => .ok (primaryRow op o1 0#8, r)
  | 3, o1 :: o2 :: r => .ok (primaryRow op o1 o2, r)
  | _, _ => .error .truncated

/-- The row of opcode_table.json the bytes stand for, and the bytes after it. Whether that row is an entry of the
primary table is `Instr.decodes`'s question. -/
def decodeRow : List Byte → Except DecodeError (Instr × List Byte)
  | [] => .error .truncated
  | b0 :: rest =>
    if b0 = 0xCB#8 then
      match rest with
      | [] => .error .truncated
      | b1 :: r => .ok (decodeExtended b1, r)
    else readOperands b0 rest

/-- The decoder with its misses (R112, R113): a miss is reported before any operand byte is looked at (R307). -/
def decode (p : Params) : List Byte → Except DecodeError (Instr × List Byte)
  | [] => .error .truncated
  | b0 :: rest =>
    if b0 ≠ 0xCB#8 ∧ (primaryRow b0 0#8 0#8).decodes p = false then .error (.unknownOpcode b0)
    else decodeRow (b0 :: rest)

/-- The instruction the row decoder reads from `w`, laid out as opcode_table.json numbers bits: byte 0 of the
instruction is `w[7:0]`, and every bit from `nbits` up is 0. The longest instruction has three bytes. -/
def decodeTableWord (nbits w : Nat) : Option Instr :=
  let w := w % 2 ^ nbits
  match decodeRow [byteOf w 0, byteOf w 1, byteOf w 2] with
  | .ok (i, _) => some i
  | .error _ => none

/-! ## The encoder -/

/-- The value of a selector in the field map `r8` (R104). -/
def Sel8.code : Sel8 → Nat
  | .reg .B => 0 | .reg .C => 1 | .reg .D => 2 | .reg .E => 3
  | .reg .H => 4 | .reg .L => 5 | .hlInd  => 6 | .reg .A => 7

/-- The value of a pair in `rp` (R105). -/
def Rp.code : Rp → Nat
  | .BC => 0 | .DE => 1 | .HL => 2 | .SP => 3

/-- The value of a pair in `rp2` (R105). -/
def Rp2.code : Rp2 → Nat
  | .BC => 0 | .DE => 1 | .HL => 2 | .AF => 3

/-- The value of a condition (R106). -/
def Cond.code : Cond → Nat
  | .NZ => 0 | .Z => 1 | .NC => 2 | .C => 3

/-- An opcode byte: a base and a field value times the weight of its place. -/
def opByte (base weight field : Nat) : Byte := BitVec.ofNat 8 (base + weight * field)

/-- `OP_D16` and `OP_A16` of R101: opcode, low byte, high byte. -/
def withWord (op : Byte) (w : Word) : List Byte := [op, lo8 w, hi8 w]

/-- The bytes of an instruction, from the `encoding` patterns of opcode_table.json. -/
def encode : Instr → List Byte
  | .nop => [0x00#8]
  | .ldA16SP a16 => withWord 0x08#8 a16
  | .stop pad => [0x10#8, pad]
  | .jrE8 e8 => [0x18#8, e8]
  | .jrCcE8 cc e8 => [opByte 0x20 8 cc.code, e8]
  | .ldRrD16 rr d16 => withWord (opByte 0x01 16 rr.code) d16
  | .addHLRr rr => [opByte 0x09 16 rr.code]
  | .ldBCA => [0x02#8]
  | .ldDEA => [0x12#8]
  | .ldHLIncA => [0x22#8]
  | .ldHLDecA => [0x32#8]
  | .ldABC => [0x0A#8]
  | .ldADE => [0x1A#8]
  | .ldAHLInc => [0x2A#8]
  | .ldAHLDec => [0x3A#8]
  | .incRr rr => [opByte 0x03 16 rr.code]
  | .decRr rr => [opByte 0x0B 16 rr.code]
  | .incR r => [opByte 0x04 8 (Sel8.reg r).code]
  | .incHL => [0x34#8]
  | .decR r => [opByte 0x05 8 (Sel8.reg r).code]
  | .decHL => [0x35#8]
  | .ldRD8 r d8 => [opByte 0x06 8 (Sel8.reg r).code, d8]
  | .ldHLD8 d8 => [0x36#8, d8]
  | .rlca => [0x07#8]
  | .rrca => [0x0F#8]
  | .rla => [0x17#8]
  | .rra => [0x1F#8]
  | .daa => [0x27#8]
  | .cpl => [0x2F#8]
  | .scf => [0x37#8]
  | .ccf => [0x3F#8]
  | .ldRR r r' => [opByte (0x40 + (Sel8.reg r').code) 8 (Sel8.reg r).code]
  | .ldRHL r => [opByte 0x46 8 (Sel8.reg r).code]
  | .ldHLR r => [opByte 0x70 1 (Sel8.reg r).code]
  | .halt => [0x76#8]
  | .addAR r => [opByte 0x80 1 (Sel8.reg r).code]
  | .addAHL => [0x86#8]
  | .adcAR r => [opByte 0x88 1 (Sel8.reg r).code]
  | .adcAHL => [0x8E#8]
  | .subR r => [opByte 0x90 1 (Sel8.reg r).code]
  | .subHL => [0x96#8]
  | .sbcAR r => [opByte 0x98 1 (Sel8.reg r).code]
  | .sbcAHL => [0x9E#8]
  | .andR r => [opByte 0xA0 1 (Sel8.reg r).code]
  | .andHL => [0xA6#8]
  | .xorR r => [opByte 0xA8 1 (Sel8.reg r).code]
  | .xorHL => [0xAE#8]
  | .orR r => [opByte 0xB0 1 (Sel8.reg r).code]
  | .orHL => [0xB6#8]
  | .cpR r => [opByte 0xB8 1 (Sel8.reg r).code]
  | .cpHL => [0xBE#8]
  | .addAD8 d8 => [0xC6#8, d8]
  | .adcAD8 d8 => [0xCE#8, d8]
  | .subD8 d8 => [0xD6#8, d8]
  | .sbcAD8 d8 => [0xDE#8, d8]
  | .andD8 d8 => [0xE6#8, d8]
  | .xorD8 d8 => [0xEE#8, d8]
  | .orD8 d8 => [0xF6#8, d8]
  | .cpD8 d8 => [0xFE#8, d8]
  | .retCc cc => [opByte 0xC0 8 cc.code]
  | .ldhA8A a8 => [0xE0#8, a8]
  | .ldhAA8 a8 => [0xF0#8, a8]
  | .addSPE8 e8 => [0xE8#8, e8]
  | .ldHLSPE8 e8 => [0xF8#8, e8]
  | .popRr rr => [opByte 0xC1 16 rr.code]
  | .ret => [0xC9#8]
  | .reti => [0xD9#8]
  | .jpHL => [0xE9#8]
  | .ldSPHL => [0xF9#8]
  | .jpCcA16 cc a16 => withWord (opByte 0xC2 8 cc.code) a16
  | .ldCA => [0xE2#8]
  | .ldAC => [0xF2#8]
  | .ldA16A a16 => withWord 0xEA#8 a16
  | .ldAA16 a16 => withWord 0xFA#8 a16
  | .jpA16 a16 => withWord 0xC3#8 a16
  | .prefixCB => [0xCB#8]
  | .di => [0xF3#8]
  | .ei => [0xFB#8]
  | .callCcA16 cc a16 => withWord (opByte 0xC4 8 cc.code) a16
  | .pushRr rr => [opByte 0xC5 16 rr.code]
  | .callA16 a16 => withWord 0xCD#8 a16
  | .rstN y => [opByte 0xC7 8 y]
  | .undefD3 => [0xD3#8]
  | .undefDB => [0xDB#8]
  | .undefDD => [0xDD#8]
  | .undefE3 => [0xE3#8]
  | .undefE4 => [0xE4#8]
  | .undefEB => [0xEB#8]
  | .undefEC => [0xEC#8]
  | .undefED => [0xED#8]
  | .undefF4 => [0xF4#8]
  | .undefFC => [0xFC#8]
  | .undefFD => [0xFD#8]
  | .rlcT t => [0xCB#8, opByte 0x00 1 t.code]
  | .rrcT t => [0xCB#8, opByte 0x08 1 t.code]
  | .rlT t => [0xCB#8, opByte 0x10 1 t.code]
  | .rrT t => [0xCB#8, opByte 0x18 1 t.code]
  | .slaT t => [0xCB#8, opByte 0x20 1 t.code]
  | .sraT t => [0xCB#8, opByte 0x28 1 t.code]
  | .swapT t => [0xCB#8, opByte 0x30 1 t.code]
  | .srlT t => [0xCB#8, opByte 0x38 1 t.code]
  | .bitBT b t => [0xCB#8, opByte (0x40 + t.code) 8 b]
  | .resBT b t => [0xCB#8, opByte (0x80 + t.code) 8 b]
  | .setBT b t => [0xCB#8, opByte (0xC0 + t.code) 8 b]

end Sys2Proof
end

