-- ==== Sys2Proof/Machine/BitOps.lean ====
section
/-! DEFINITION. Bit test, reset and set (spec/45_bit.md). -/

namespace Sys2Proof.Machine

/-- `BIT b,t` (R230). -/
def execBitBT (b : Fin 8) (t : Sel8) (s : State) : Result :=
  andThen (rd8 s (selTarget t)) fun v => finish 2 (s.setF (bitFlags s.f b v))

/-- `RES b,t` (R231). -/
def execResBT (b : Fin 8) (t : Sel8) (s : State) : Result :=
  modify8 2 (selTarget t) (fun v => (resBit b v, s.f)) s

/-- `SET b,t` (R232). -/
def execSetBT (b : Fin 8) (t : Sel8) (s : State) : Result :=
  modify8 2 (selTarget t) (fun v => (setBit b v, s.f)) s

end Sys2Proof.Machine
end

