-- ==== Sys2Proof/Machine/Rotate.lean ====
section
/-! DEFINITION. Rotates, shifts and swap (spec/44_rotate_shift.md). -/

namespace Sys2Proof.Machine

/-- The frame of the four one-byte accumulator rotates (R218 to R221). -/
def rotateA (r : Byte × Bool) (s : State) : Result :=
  finish 1 ((s.setReg .A (rotateAFlags r).1).setF (rotateAFlags r).2)

/-- `RLC t` (R210). -/
def execRlcT (t : Sel8) (s : State) : Result := modify8 2 (selTarget t) (fun v => rotateFlags (rlcOp v)) s

/-- `RRC t` (R211). -/
def execRrcT (t : Sel8) (s : State) : Result := modify8 2 (selTarget t) (fun v => rotateFlags (rrcOp v)) s

/-- `RL t` (R212). -/
def execRlT (t : Sel8) (s : State) : Result :=
  modify8 2 (selTarget t) (fun v => rotateFlags (rlOp s.f.c v)) s

/-- `RR t` (R213). -/
def execRrT (t : Sel8) (s : State) : Result :=
  modify8 2 (selTarget t) (fun v => rotateFlags (rrOp s.f.c v)) s

/-- `SLA t` (R214). -/
def execSlaT (t : Sel8) (s : State) : Result := modify8 2 (selTarget t) (fun v => rotateFlags (slaOp v)) s

/-- `SRA t` (R215). -/
def execSraT (t : Sel8) (s : State) : Result := modify8 2 (selTarget t) (fun v => rotateFlags (sraOp v)) s

/-- `SWAP t` (R216). -/
def execSwapT (t : Sel8) (s : State) : Result := modify8 2 (selTarget t) (fun v => rotateFlags (swapOp v)) s

/-- `SRL t` (R217). -/
def execSrlT (t : Sel8) (s : State) : Result := modify8 2 (selTarget t) (fun v => rotateFlags (srlOp v)) s

/-- `RLCA` (R218). -/
def execRlca (s : State) : Result := rotateA (rlcOp s.a) s

/-- `RLA` (R219). -/
def execRla (s : State) : Result := rotateA (rlOp s.f.c s.a) s

/-- `RRCA` (R220). -/
def execRrca (s : State) : Result := rotateA (rrcOp s.a) s

/-- `RRA` (R221). -/
def execRra (s : State) : Result := rotateA (rrOp s.f.c s.a) s

end Sys2Proof.Machine
end

