-- ==== Sys2Proof/Machine/Prefix.lean ====
section
/-! DEFINITION. The prefix row (spec/48_misc.md R279, 30_encoding.md R113). -/

namespace Sys2Proof.Machine

/-- The meaning of the extended instruction a second byte selects, by the fields of R107 and R111. -/
def runExtended (b1 : Byte) (s : State) : Result :=
  let t := sel8Of (field3 b1 0)
  match field2 b1 6, field3 b1 3 with
  | 0, 0 => execRlcT t s
  | 0, 1 => execRrcT t s
  | 0, 2 => execRlT t s
  | 0, 3 => execRrT t s
  | 0, 4 => execSlaT t s
  | 0, 5 => execSraT t s
  | 0, 6 => execSwapT t s
  | 0, 7 => execSrlT t s
  | 1, b => execBitBT b t s
  | 2, b => execResBT b t s
  | 3, b => execSetBT b t s

/-- `PREFIX CB` (R279): the byte is no instruction; it selects the extended table for the byte after it, which is
fetched, and "prefix and byte form one 2-byte instruction executed in one step". The step reads both bytes itself
(Machine/Fetch.lean), so this row is reached only by an instruction value put here. -/
def execPrefixCB (s : State) : Result :=
  andThen (busLoad s (s.pc + 1#16)) fun b1 => runExtended b1 s

end Sys2Proof.Machine
end

