-- ==== Sys2Proof/Machine/Stack.lean ====
section
/-! DEFINITION. Stack, calls, returns and restarts (spec/46_stack_call.md). -/

namespace Sys2Proof.Machine

/-- A taken call: the return address is `npc`, three bytes on (R243). -/
def callTo (target : Word) (s : State) : Result :=
  andThen (push16 s (s.npc 3)) fun s1 => jumpTo target s1

/-- A taken return: `pc <- pop16()` (R245). -/
def returnTo (s : State) : Result :=
  andThen (pop16 s) fun p => jumpTo p.1 p.2

/-- `RST_PUSH_BIAS` (R247): what RST adds to `pc0`. -/
def rstBias : RstPushBias → Word
  | .one => 1#16
  | .two => 2#16

/-- The restart vector `n = y * 8` (R247). -/
def rstVector (y : Fin 8) : Word := BitVec.ofNat 16 (y.val * 8)

/-- `PUSH rr` (R241). -/
def execPushRr (rr : Rp2) (s : State) : Result := andThen (push16 s (s.rp2 rr)) fun s1 => finish 1 s1

/-- `POP rr` (R242). -/
def execPopRr (rr : Rp2) (s : State) : Result := andThen (pop16 s) fun p => finish 1 (p.2.setRp2 rr p.1)

/-- `CALL a16` (R243). -/
def execCallA16 (a16 : Word) (s : State) : Result := callTo a16 s

/-- `CALL cc,a16` (R244). -/
def execCallCcA16 (cc : Cond) (a16 : Word) (s : State) : Result :=
  if s.f.cond cc then callTo a16 s else finish 3 s

/-- `RET` (R245). -/
def execRet (s : State) : Result := returnTo s

/-- `RET cc` (R246). -/
def execRetCc (cc : Cond) (s : State) : Result := if s.f.cond cc then returnTo s else finish 1 s

/-- `RST n` (R247). -/
def execRstN (y : Fin 8) (s : State) : Result :=
  andThen (push16 s (s.pc + rstBias s.par.rstBias)) fun s1 => jumpTo (rstVector y) s1

/-- `RETI` (R248). -/
def execReti (s : State) : Result := returnTo s

end Sys2Proof.Machine
end

