-- ==== Sys2Proof/Machine/Dispatch.lean ====
section
/-! DEFINITION. One arm per row of spec/opcode_table.json: the meaning of each instruction. -/

namespace Sys2Proof.Machine

def exec (i : Instr) (s : State) : Host.Outcome State Fault Refusal :=
  match i with
  | .nop => Sys2Proof.Machine.execNop s
  | .ldA16SP a16 => Sys2Proof.Machine.execLdA16SP a16 s
  | .stop pad => Sys2Proof.Machine.execStop pad s
  | .jrE8 e8 => Sys2Proof.Machine.execJrE8 e8 s
  | .jrCcE8 cc e8 => Sys2Proof.Machine.execJrCcE8 cc e8 s
  | .ldRrD16 rr d16 => Sys2Proof.Machine.execLdRrD16 rr d16 s
  | .addHLRr rr => Sys2Proof.Machine.execAddHLRr rr s
  | .ldBCA => Sys2Proof.Machine.execLdBCA s
  | .ldDEA => Sys2Proof.Machine.execLdDEA s
  | .ldHLIncA => Sys2Proof.Machine.execLdHLIncA s
  | .ldHLDecA => Sys2Proof.Machine.execLdHLDecA s
  | .ldABC => Sys2Proof.Machine.execLdABC s
  | .ldADE => Sys2Proof.Machine.execLdADE s
  | .ldAHLInc => Sys2Proof.Machine.execLdAHLInc s
  | .ldAHLDec => Sys2Proof.Machine.execLdAHLDec s
  | .incRr rr => Sys2Proof.Machine.execIncRr rr s
  | .decRr rr => Sys2Proof.Machine.execDecRr rr s
  | .incR r => Sys2Proof.Machine.execIncR r s
  | .incHL => Sys2Proof.Machine.execIncHL s
  | .decR r => Sys2Proof.Machine.execDecR r s
  | .decHL => Sys2Proof.Machine.execDecHL s
  | .ldRD8 r d8 => Sys2Proof.Machine.execLdRD8 r d8 s
  | .ldHLD8 d8 => Sys2Proof.Machine.execLdHLD8 d8 s
  | .rlca => Sys2Proof.Machine.execRlca s
  | .rrca => Sys2Proof.Machine.execRrca s
  | .rla => Sys2Proof.Machine.execRla s
  | .rra => Sys2Proof.Machine.execRra s
  | .daa => Sys2Proof.Machine.execDaa s
  | .cpl => Sys2Proof.Machine.execCpl s
  | .scf => Sys2Proof.Machine.execScf s
  | .ccf => Sys2Proof.Machine.execCcf s
  | .ldRR r r' => Sys2Proof.Machine.execLdRR r r' s
  | .ldRHL r => Sys2Proof.Machine.execLdRHL r s
  | .ldHLR r => Sys2Proof.Machine.execLdHLR r s
  | .halt => Sys2Proof.Machine.execHalt s
  | .addAR r => Sys2Proof.Machine.execAddAR r s
  | .addAHL => Sys2Proof.Machine.execAddAHL s
  | .adcAR r => Sys2Proof.Machine.execAdcAR r s
  | .adcAHL => Sys2Proof.Machine.execAdcAHL s
  | .subR r => Sys2Proof.Machine.execSubR r s
  | .subHL => Sys2Proof.Machine.execSubHL s
  | .sbcAR r => Sys2Proof.Machine.execSbcAR r s
  | .sbcAHL => Sys2Proof.Machine.execSbcAHL s
  | .andR r => Sys2Proof.Machine.execAndR r s
  | .andHL => Sys2Proof.Machine.execAndHL s
  | .xorR r => Sys2Proof.Machine.execXorR r s
  | .xorHL => Sys2Proof.Machine.execXorHL s
  | .orR r => Sys2Proof.Machine.execOrR r s
  | .orHL => Sys2Proof.Machine.execOrHL s
  | .cpR r => Sys2Proof.Machine.execCpR r s
  | .cpHL => Sys2Proof.Machine.execCpHL s
  | .addAD8 d8 => Sys2Proof.Machine.execAddAD8 d8 s
  | .adcAD8 d8 => Sys2Proof.Machine.execAdcAD8 d8 s
  | .subD8 d8 => Sys2Proof.Machine.execSubD8 d8 s
  | .sbcAD8 d8 => Sys2Proof.Machine.execSbcAD8 d8 s
  | .andD8 d8 => Sys2Proof.Machine.execAndD8 d8 s
  | .xorD8 d8 => Sys2Proof.Machine.execXorD8 d8 s
  | .orD8 d8 => Sys2Proof.Machine.execOrD8 d8 s
  | .cpD8 d8 => Sys2Proof.Machine.execCpD8 d8 s
  | .retCc cc => Sys2Proof.Machine.execRetCc cc s
  | .ldhA8A a8 => Sys2Proof.Machine.execLdhA8A a8 s
  | .ldhAA8 a8 => Sys2Proof.Machine.execLdhAA8 a8 s
  | .addSPE8 e8 => Sys2Proof.Machine.execAddSPE8 e8 s
  | .ldHLSPE8 e8 => Sys2Proof.Machine.execLdHLSPE8 e8 s
  | .popRr rr => Sys2Proof.Machine.execPopRr rr s
  | .ret => Sys2Proof.Machine.execRet s
  | .reti => Sys2Proof.Machine.execReti s
  | .jpHL => Sys2Proof.Machine.execJpHL s
  | .ldSPHL => Sys2Proof.Machine.execLdSPHL s
  | .jpCcA16 cc a16 => Sys2Proof.Machine.execJpCcA16 cc a16 s
  | .ldCA => Sys2Proof.Machine.execLdCA s
  | .ldAC => Sys2Proof.Machine.execLdAC s
  | .ldA16A a16 => Sys2Proof.Machine.execLdA16A a16 s
  | .ldAA16 a16 => Sys2Proof.Machine.execLdAA16 a16 s
  | .jpA16 a16 => Sys2Proof.Machine.execJpA16 a16 s
  | .prefixCB => Sys2Proof.Machine.execPrefixCB s
  | .di => Sys2Proof.Machine.execDi s
  | .ei => Sys2Proof.Machine.execEi s
  | .callCcA16 cc a16 => Sys2Proof.Machine.execCallCcA16 cc a16 s
  | .pushRr rr => Sys2Proof.Machine.execPushRr rr s
  | .callA16 a16 => Sys2Proof.Machine.execCallA16 a16 s
  | .rstN y => Sys2Proof.Machine.execRstN y s
  | .undefD3 => Sys2Proof.Machine.execUndefD3 s
  | .undefDB => Sys2Proof.Machine.execUndefDB s
  | .undefDD => Sys2Proof.Machine.execUndefDD s
  | .undefE3 => Sys2Proof.Machine.execUndefE3 s
  | .undefE4 => Sys2Proof.Machine.execUndefE4 s
  | .undefEB => Sys2Proof.Machine.execUndefEB s
  | .undefEC => Sys2Proof.Machine.execUndefEC s
  | .undefED => Sys2Proof.Machine.execUndefED s
  | .undefF4 => Sys2Proof.Machine.execUndefF4 s
  | .undefFC => Sys2Proof.Machine.execUndefFC s
  | .undefFD => Sys2Proof.Machine.execUndefFD s
  | .rlcT t => Sys2Proof.Machine.execRlcT t s
  | .rrcT t => Sys2Proof.Machine.execRrcT t s
  | .rlT t => Sys2Proof.Machine.execRlT t s
  | .rrT t => Sys2Proof.Machine.execRrT t s
  | .slaT t => Sys2Proof.Machine.execSlaT t s
  | .sraT t => Sys2Proof.Machine.execSraT t s
  | .swapT t => Sys2Proof.Machine.execSwapT t s
  | .srlT t => Sys2Proof.Machine.execSrlT t s
  | .bitBT b t => Sys2Proof.Machine.execBitBT b t s
  | .resBT b t => Sys2Proof.Machine.execResBT b t s
  | .setBT b t => Sys2Proof.Machine.execSetBT b t s

end Sys2Proof.Machine
end

