-- ==== Sys2Proof/Machine/Fetch.lean ====
section
/-! DEFINITION. Fetch and decode of one step (spec/30_encoding.md R100), and the harness's way of placing an
instruction where the next fetch reads. -/

namespace Sys2Proof.Machine

/-- The operand bytes of a first byte that is an entry of the primary table, in ascending address order, all of them
(20_memory.md R79). -/
def fetchOperands (s : State) (b0 : Byte) : Except Fault Instr :=
  match (primaryRow b0 0#8 0#8).length with
  | 1 => .ok (primaryRow b0 0#8 0#8)
  | 2 =>
    match busLoad s (s.pc + 1#16) with
    | .error e => .error e
    | .ok o1 => .ok (primaryRow b0 o1 0#8)
  | _ =>
    match busLoad s (s.pc + 1#16) with
    | .error e => .error e
    | .ok o1 =>
      match busLoad s (s.pc + 2#16) with
      | .error e => .error e
      | .ok o2 => .ok (primaryRow b0 o1 o2)

/-- R100 up to "run the rule": the opcode byte; after the prefix the second byte; else the miss (R303) before any
operand byte (60_exceptions.md R307), then the operand bytes. -/
def fetchInstr (s : State) : Except Fault Instr :=
  match busLoad s s.pc with
  | .error e => .error e
  | .ok b0 =>
    if b0 = 0xCB#8 then
      match busLoad s (s.pc + 1#16) with
      | .error e => .error e
      | .ok b1 => .ok (decodeExtended b1)
    else if (primaryRow b0 0#8 0#8).decodes s.par then fetchOperands s b0
    else .error (.unknownOpcode b0)

/-- A byte of the image or of a region replaced from outside, whatever the permission: setting the launch state
(10_state.md R36), not an access of the machine. An address no device claims is left alone. -/
def placeByte (s : State) (a : Word) (v : Byte) : State :=
  match route s a with
  | none => s
  | some (.region _) => { s with mem := cellsPut unlistedByte s.mem a.toNat v }
  | some .cartridge =>
    match s.cart with
    | .type0 img => { s with cart := .type0 ⟨img.len, cellsPut unlistedImageByte img.cells a.toNat v⟩ }
    | .type1 img sel =>
      { s with cart := .type1 ⟨img.len, cellsPut unlistedImageByte img.cells (type1Offset sel a.toNat) v⟩ sel }

/-- The bytes placed at consecutive addresses, wrapping at 0xFFFF. -/
def placeBytes (s : State) (a : Word) : List Byte → State
  | [] => s
  | b :: rest => placeBytes (placeByte s a b) (a + 1#16) rest

/-- The three bytes of an instruction of `nbits` bits `w`, the bits above `nbits` zero, placed at `pc`. -/
def placeTableWord (s : State) (nbits w : Nat) : State :=
  let w := w % 2 ^ nbits
  placeBytes s s.pc [byteOf w 0, byteOf w 1, byteOf w 2]

end Sys2Proof.Machine
end

