-- ==== Sys2Proof/Machine/Step.lean ====
section
/-! DEFINITION. The step (spec/30_encoding.md R100) and the host's placing of one instruction (log entry 2). The cycle
count R100 returns beside the state is in Machine/Port.lean. -/

namespace Sys2Proof.Machine

/-- R100: fetch and decode, then the rule of the instruction; the first error ends the step (60_exceptions.md R307). -/
def step (s : State) : Host.Outcome State Fault Refusal :=
  match fetchInstr s with
  | .error e => raise e
  | .ok i => exec i s

/-- `s` with an instruction placed where `step` fetches next: at `pc`, in the image or the region that answers there. -/
def State.withFetchWord (s : State) (nbits w : Nat) : State := placeTableWord s nbits w

end Sys2Proof.Machine
end

