-- ==== Sys2Proof/Machine/Construct.lean ====
section
/-! DEFINITION. Construction, which is reset (spec/70_reset_and_hazards.md R330): the cartridge factory
(20_memory.md R60 to R65), the bus configuration (R53, R55) and the initial state (10_state.md R37). -/

namespace Sys2Proof.Machine

/-- The cartridge variants of `CART_TYPE_MAP` (R61). -/
inductive CartKind where
  | type0
  | type1
  deriving DecidableEq, Repr

/-- The arguments of construction besides IMAGE (00_scope.md R6). `none` of `typeMap` is "unsupported". `ramInit` lists
the initial bytes of the regions by bus address, an unlisted one being `unlistedByte` (log entry 4). -/
structure BuildParams where
  typeMap  : Byte → Option CartKind
  romBanks : Byte → Option Nat
  ramInit  : Cells
  regReset : RegReset
  par      : Params

/-- `CART_TYPE_MAP`'s default (R61). -/
def defaultTypeMap (code : Byte) : Option CartKind :=
  if code = 0x00#8 then some .type0 else if code = 0x01#8 then some .type1 else none

/-- `ROM_BANKS`'s default (R63): `2 << code` for code 0 to 8. -/
def defaultRomBanks (code : Byte) : Option Nat :=
  if code.toNat ≤ 8 then some (2 <<< code.toNat) else none

/-- R6's defaults. -/
def BuildParams.default : BuildParams where
  typeMap  := defaultTypeMap
  romBanks := defaultRomBanks
  ramInit  := []
  regReset := RegReset.default
  par      := Params.default

/-- The listed cells of a run of bytes from offset `o` on. -/
def imageCells (o : Nat) : List Byte → Cells
  | [] => []
  | b :: rest => if b = unlistedImageByte then imageCells (o + 1) rest else (o, b) :: imageCells (o + 1) rest

/-- `IMAGE` as a sequence of bytes (R6) in the model's sparse form. -/
def Image.ofBytes (bytes : List Byte) : Image := ⟨bytes.length, imageCells 0 bytes⟩

/-- `cartridge_factory(IMAGE)` (R60 to R65): an image too short for its metadata (R63), the type code at 0x147, the
length of a Type0 image (R64), the geometry of a Type1 image (R63), whose `bank_sel` starts at 0 (R70). -/
def cartridgeFactory (b : BuildParams) (img : Image) : Except Fault Cartridge :=
  if img.len < 0x14A then .error .imageGeometryMismatch
  else
    match b.typeMap (img.byte 0x147) with
    | none => .error (.unsupportedCartridgeType (img.byte 0x147))
    | some .type0 => if img.len ≤ 0x8000 then .ok (.type0 img) else .error .imageGeometryMismatch
    | some .type1 =>
      match b.romBanks (img.byte 0x148) with
      | none => .error .imageGeometryMismatch
      | some n => if img.len = n * bankSize then .ok (.type1 img 0) else .error .imageGeometryMismatch

/-- Two windows hold no common address. -/
def disjointWindows (r q : Region) : Bool :=
  r.len == 0 || q.len == 0 || decide (r.base + r.len ≤ q.base) || decide (q.base + q.len ≤ r.base)

/-- R53: windows inside 0x0000 to 0xFFFF and pairwise disjoint. -/
def windowsWf : List Region → Bool
  | [] => true
  | r :: rest => decide (r.base + r.len ≤ 0x10000) && rest.all (disjointWindows r) && windowsWf rest

/-- "NSW ... at least 1" (R63); nothing to ask of a Type0 cartridge. -/
def Cartridge.hasBank : Cartridge → Bool
  | .type0 _ => true
  | .type1 img _ => decide (0 < img.nsw)

/-- The bytes of the regions at reset: `RAM_INIT` at the addresses some region holds. -/
def initialMemory (regions : List Region) : Cells → Memory
  | [] => []
  | (a, v) :: rest =>
    if regions.any (fun r => inWindow r a) then cellsPut unlistedByte (initialMemory regions rest) a v
    else initialMemory regions rest

/-- `reset(IMAGE, parameters)` of R330. A configuration that is not well formed is refused (R53; log entry 10). -/
def construct (b : BuildParams) (img : Image) : Result :=
  match cartridgeFactory b img with
  | .error e => raise e
  | .ok cart =>
    if windowsWf (cart.window :: b.par.regions) && cart.hasBank then
      .next (State.initial b.regReset cart (initialMemory b.par.regions b.ramInit) b.par)
    else .refused .illFormedConfiguration

/-- Construction from the image's bytes. -/
def constructBytes (b : BuildParams) (bytes : List Byte) : Result := construct b (Image.ofBytes bytes)

end Sys2Proof.Machine
end

