-- ==== Sys2Proof/Machine/Port.lean ====
section
/-! DEFINITION. The step port (spec/00_scope.md R13): the response a step gives the driver, and the state that remains.
The cycle count is an output and not state (R14; 70_reset_and_hazards.md R344); the state after a failed step is
60_exceptions.md R304's, under either FAULT_STATE_POLICY (log entries 6 and 7). -/

namespace Sys2Proof.Machine

/-- The error kinds without payload: "two errors of the same kind are the same observation" (60_exceptions.md R300). -/
inductive ErrorKind where
  | unmappedAddress
  | permissionDenied
  | unsupportedCartridgeType
  | invalidOperand
  | unknownOpcode
  | imageGeometryMismatch
  deriving DecidableEq, Repr

/-- The kind of an error (R300). -/
def Fault.kind : Fault → ErrorKind
  | .unmappedAddress _ => .unmappedAddress
  | .permissionDenied _ => .permissionDenied
  | .unsupportedCartridgeType _ => .unsupportedCartridgeType
  | .invalidOperand => .invalidOperand
  | .unknownOpcode _ => .unknownOpcode
  | .imageGeometryMismatch => .imageGeometryMismatch

/-- The ordinal of R300's table: "only the order of the source's list". -/
def ErrorKind.ordinal : ErrorKind → Nat
  | .unmappedAddress => 0
  | .permissionDenied => 1
  | .unsupportedCartridgeType => 2
  | .invalidOperand => 3
  | .unknownOpcode => 4
  | .imageGeometryMismatch => 5

/-- The default `CYCLES` (70_reset_and_hazards.md R345), for an instruction and whether its transfer is taken. Timing
only. A row whose step always fails (an undefined byte) returns no count; the bare prefix is "counted in the extended
instruction": 0 stands there. -/
def defaultCycles : Instr → Bool → Nat
  | .nop, _ | .stop _, _ | .incR _, _ | .decR _, _ | .rlca, _ | .rrca, _ | .rla, _ | .rra, _ | .daa, _
  | .cpl, _ | .scf, _ | .ccf, _ | .ldRR _ _, _ | .halt, _ | .addAR _, _ | .adcAR _, _ | .subR _, _
  | .sbcAR _, _ | .andR _, _ | .xorR _, _ | .orR _, _ | .cpR _, _ | .jpHL, _ | .di, _ | .ei, _ => 4
  | .ldA16SP _, _ => 20
  | .jrE8 _, _ | .ldRrD16 _ _, _ | .incHL, _ | .decHL, _ | .ldHLD8 _, _ | .ldhA8A _, _ | .ldhAA8 _, _
  | .ldHLSPE8 _, _ | .popRr _, _ => 12
  | .jrCcE8 _ _, taken => if taken then 12 else 8
  | .addHLRr _, _ | .ldBCA, _ | .ldDEA, _ | .ldHLIncA, _ | .ldHLDecA, _ | .ldABC, _ | .ldADE, _
  | .ldAHLInc, _ | .ldAHLDec, _ | .incRr _, _ | .decRr _, _ | .ldRD8 _ _, _ | .ldRHL _, _ | .ldHLR _, _
  | .addAHL, _ | .adcAHL, _ | .subHL, _ | .sbcAHL, _ | .andHL, _ | .xorHL, _ | .orHL, _ | .cpHL, _
  | .addAD8 _, _ | .adcAD8 _, _ | .subD8 _, _ | .sbcAD8 _, _ | .andD8 _, _ | .xorD8 _, _ | .orD8 _, _
  | .cpD8 _, _ | .ldSPHL, _ | .ldCA, _ | .ldAC, _ => 8
  | .retCc _, taken => if taken then 20 else 8
  | .addSPE8 _, _ | .ret, _ | .reti, _ | .ldA16A _, _ | .ldAA16 _, _ | .jpA16 _, _ | .pushRr _, _
  | .rstN _, _ => 16
  | .jpCcA16 _ _, taken => if taken then 16 else 12
  | .prefixCB, _ | .undefD3, _ | .undefDB, _ | .undefDD, _ | .undefE3, _ | .undefE4, _ | .undefEB, _
  | .undefEC, _ | .undefED, _ | .undefF4, _ | .undefFC, _ | .undefFD, _ => 0
  | .callCcA16 _ _, taken => if taken then 24 else 12
  | .callA16 _, _ => 24
  | .rlcT t, _ | .rrcT t, _ | .rlT t, _ | .rrT t, _ | .slaT t, _ | .sraT t, _ | .swapT t, _ | .srlT t, _
  | .resBT _ t, _ | .setBT _ t, _ => if t = .hlInd then 16 else 8
  | .bitBT _ t, _ => if t = .hlInd then 12 else 8

/-- Whether a control transfer is taken: its condition (30_encoding.md R106); true for every other instruction. -/
def transferTaken (i : Instr) (s : State) : Bool :=
  match i with
  | .jrCcE8 cc _ | .jpCcA16 cc _ | .callCcA16 cc _ | .retCc cc => s.f.cond cc
  | _ => true

/-- The response of the step port (R13): `ok(cycles)` or `err(kind)`. -/
inductive Response where
  | ok (cycles : Nat)
  | err (kind : ErrorKind)
  deriving DecidableEq, Repr

/-- The states the CORE may be in after a failed step from `s` (60_exceptions.md R304): `s` itself under `precise`;
under `unspecified` CPU state is arbitrary, memory and `bank_sel` unchanged. -/
def MayRemain (s t : State) : Prop :=
  match s.par.faultState with
  | .precise => t = s
  | .unspecified => t.mem = s.mem ∧ t.cart = s.cart ∧ t.par = s.par

/-- One request on the step port, with `CYCLES` an argument: the response and the state after it. -/
inductive StepPort (cycles : Instr → Bool → Nat) : State → Response → State → Prop where
  | ok {s t : State} {i : Instr} (fetched : fetchInstr s = .ok i) (ran : exec i s = .next t) :
      StepPort cycles s (.ok (cycles i (transferTaken i s))) t
  | err {s t : State} {e : Fault} (failed : step s = .fault e) (remains : MayRemain s t) :
      StepPort cycles s (.err e.kind) t

end Sys2Proof.Machine
end

