-- ==== Sys2Proof/Safety.lean ====
section
/-! DEFINITION. What a reachable state is like, and what a safe run is, in the terms claims use. -/

namespace Sys2Proof.Machine

/-- An image in canonical form: its listed offsets inside it. -/
def Image.wf (img : Image) : Bool :=
  cellsWf unlistedImageByte img.cells && img.cells.all (fun c => decide (c.1 < img.len))

/-- A cartridge as the factory builds it and every store keeps it: Type0 of a length R64 allows; Type1 of whole banks,
with "the mapped bank reference ... always valid" (10_state.md R32). -/
def Cartridge.wf : Cartridge → Bool
  | .type0 img => img.wf && decide (0x14A ≤ img.len) && decide (img.len ≤ 0x8000)
  | .type1 img sel => img.wf && decide (img.len = (img.nsw + 1) * bankSize) && decide (sel < img.nsw)

/-- The invariant of the machine: memory in canonical form and inside the regions, a well-formed cartridge, and the
bus configuration of 20_memory.md R53. -/
abbrev State.Inv (s : State) : Prop :=
  s.mem.wf = true ∧
  s.mem.all (fun c => s.par.regions.any fun r => inWindow r c.1) = true ∧
  s.cart.wf = true ∧
  windowsWf (s.cart.window :: s.par.regions) = true

/-- A run of `k` steps without an error: "a model takes the first `err` as the end of the run" (60_exceptions.md
R317). -/
def State.runsFor (k : Nat) (s : State) : Prop := ∃ t, Sys2Proof.core.run k s = .next t

end Sys2Proof.Machine
end

