-- ==== Sys2Proof/Certificates/Slice0/Obligations.lean ====
section
/-! DEFINITION. The statements for the provers. Each docstring names the rule of spec/ the statement formalises, or the
section it is derived from. The helpers before them restate a rule's own pseudocode in natural and integer arithmetic,
apart from the model's definitions, or list what the spec lists. -/

namespace Sys2Proof.Claims

open Sys2Proof Sys2Proof.Machine

/-! ## Results, from the rules' pseudocode -/

/-- `v & 0x0F` as a number. -/
def nibble (v : Byte) : Nat := (v &&& 0x0F#8).toNat

/-- `add8` as 42_alu8.md R170 writes it. -/
def r170 (mode : CarryInFlagMode) (cin : Bool) (a v : Byte) : Byte × Flags :=
  let r := (a.toNat + v.toNat + cin.toNat) % 256
  match mode with
  | .excluded =>
    (BitVec.ofNat 8 r, ⟨r == 0, false, decide (nibble a + nibble v > 0x0F), decide (a.toNat + v.toNat > 0xFF)⟩)
  | .included =>
    (BitVec.ofNat 8 r, ⟨r == 0, false, decide (nibble a + nibble v + cin.toNat > 0x0F),
      decide (a.toNat + v.toNat + cin.toNat > 0xFF)⟩)

/-- `sub8` as 42_alu8.md R171 writes it. -/
def r171 (mode : CarryInFlagMode) (cin : Bool) (a v : Byte) : Byte × Flags :=
  let r : Int := ((a.toNat : Int) - v.toNat - cin.toNat) % 256
  match mode with
  | .excluded =>
    (BitVec.ofInt 8 r, ⟨r == 0, true, decide (nibble a < nibble v), decide (a.toNat < v.toNat)⟩)
  | .included =>
    (BitVec.ofInt 8 r, ⟨r == 0, true, decide (nibble a < nibble v + cin.toNat),
      decide (a.toNat < v.toNat + cin.toNat)⟩)

/-- INC of 8 bits, 42_alu8.md R196. -/
def r196 (f : Flags) (v : Byte) : Byte × Flags :=
  let r := (v.toNat + 1) % 256
  (BitVec.ofNat 8 r, ⟨r == 0, false, decide (nibble v + 1 > 0x0F), f.c⟩)

/-- DEC of 8 bits, 42_alu8.md R198. -/
def r198 (f : Flags) (v : Byte) : Byte × Flags :=
  let r : Int := ((v.toNat : Int) - 1) % 256
  (BitVec.ofInt 8 r, ⟨r == 0, true, decide (nibble v < 1), f.c⟩)

/-- The flags of `sp + e8`, 43_alu16.md R203 and 41_load16.md R163. -/
def r203Flags (sp : Word) (e8 : Byte) : Flags :=
  ⟨false, false, decide ((sp &&& 0x000F#16).toNat + nibble e8 > 0x0F),
    decide ((sp &&& 0x00FF#16).toNat + e8.toNat > 0xFF)⟩

/-- The displacement byte as a signed number, -128 to +127 (30_encoding.md R103). -/
def signed8 (e8 : Byte) : Int := if e8.toNat < 128 then e8.toNat else (e8.toNat : Int) - 256

/-- A 16-bit quantity moved by a signed number, modulo 65536. -/
def moved (w : Word) (k : Int) : Word := BitVec.ofInt 16 ((w.toNat : Int) + k)

/-- One of the eight extended operations of 44_rotate_shift.md R210 to R217, on numbers: the result and the carry. -/
def rotated (y : Fin 8) (cin : Bool) (v : Nat) : Nat × Bool :=
  match y with
  | 0 => (v * 2 % 256 + v / 128, v / 128 == 1)
  | 1 => (v / 2 + v % 2 * 128, v % 2 == 1)
  | 2 => (v * 2 % 256 + cin.toNat, v / 128 == 1)
  | 3 => (v / 2 + cin.toNat * 128, v % 2 == 1)
  | 4 => (v * 2 % 256, v / 128 == 1)
  | 5 => (v / 2 + v / 128 * 128, v % 2 == 1)
  | 6 => (v % 16 * 16 + v / 16, false)
  | 7 => (v / 2, v % 2 == 1)

/-- R222's result and flags for operation `y`: Z from the result, N and H cleared, C the carry out. -/
def r222 (y : Fin 8) (f : Flags) (v : Byte) : Byte × Flags :=
  (BitVec.ofNat 8 (rotated y f.c v.toNat).1,
    ⟨(rotated y f.c v.toNat).1 == 0, false, false, (rotated y f.c v.toNat).2⟩)

/-- DAA, 48_misc.md R276, line by line. -/
def r276 (f : Flags) (a : Byte) : Byte × Flags :=
  let a0 : Int := a.toNat
  let high : Bool := f.c || (!f.n && decide (a0 > 0x99))
  let a1 : Int := if f.n then (if f.c then a0 - 0x60 else a0) else (if high then a0 + 0x60 else a0)
  let a2 : Int :=
    if f.n then (if f.h then a1 - 0x06 else a1) else (if f.h || decide (a1 % 16 > 9) then a1 + 0x06 else a1)
  (BitVec.ofInt 8 a2, ⟨a2 % 256 == 0, f.n, false, if f.n then f.c else high⟩)

/-! ## Shapes of completion -/

/-- The state after an operation on A of `n` bytes. -/
def onA (s : State) (n : Word) (r : Byte × Flags) : State := { s with a := r.1, f := r.2, pc := s.pc + n }

/-- The three operand forms of an ALU operation, each with its next state, and the form that reads memory with its
error: nothing else can stop one. -/
def AluForms (onReg : Reg8 → Instr) (onHL : Instr) (onD8 : Byte → Instr) (after : State → Word → Byte → State) : Prop :=
  ∀ s : State,
    (∀ r, exec (onReg r) s = .next (after s 1 (s.reg r))) ∧
    (∀ v, busLoad s s.hl = .ok v → exec onHL s = .next (after s 1 v)) ∧
    (∀ e, busLoad s s.hl = .error e → exec onHL s = .fault e) ∧
    (∀ d, exec (onD8 d) s = .next (after s 2 d))

/-- A read-modify-write on a register. -/
def ModifiesReg (i : Instr) (r : Reg8) (n : Word) (op : Flags → Byte → Byte × Flags) : Prop :=
  ∀ s : State, exec i s =
    .next { s.setReg r (op s.f (s.reg r)).1 with f := (op s.f (s.reg r)).2, pc := s.pc + n }

/-- A read-modify-write on the byte at HL: read, then write at the same address, then the flags; the error of the read,
else the error of the write. -/
def ModifiesHL (i : Instr) (n : Word) (op : Flags → Byte → Byte × Flags) : Prop :=
  ∀ s : State,
    (∀ v t, busLoad s s.hl = .ok v → busStore s s.hl (op s.f v).1 = .ok t →
      exec i s = .next { t with f := (op s.f v).2, pc := s.pc + n }) ∧
    (∀ e, busLoad s s.hl = .error e → exec i s = .fault e) ∧
    (∀ v e, busLoad s s.hl = .ok v → busStore s s.hl (op s.f v).1 = .error e → exec i s = .fault e)

/-- An extended instruction on all eight targets. -/
def ModifiesTarget (i : Sel8 → Instr) (op : Flags → Byte → Byte × Flags) : Prop :=
  (∀ r, ModifiesReg (i (.reg r)) r 2 op) ∧ ModifiesHL (i .hlInd) 2 op

/-- A load from `addr s`: the state `after` it, or its error. -/
def LoadsFrom (i : Instr) (addr : State → Word) (after : State → Byte → State) : Prop :=
  ∀ s : State,
    (∀ v, busLoad s (addr s) = .ok v → exec i s = .next (after s v)) ∧
    (∀ e, busLoad s (addr s) = .error e → exec i s = .fault e)

/-- A store of the byte `value s` at `addr s`: the store's state with the rest of the effect `also`, or its error. -/
def StoresTo (i : Instr) (addr : State → Word) (value : State → Byte) (also : State → State → State) : Prop :=
  ∀ s : State,
    (∀ t, busStore s (addr s) (value s) = .ok t → exec i s = .next (also s t)) ∧
    (∀ e, busStore s (addr s) (value s) = .error e → exec i s = .fault e)

/-- A push of `value s`, then `pc` at `target s`: both bytes below `sp`, then `sp` lowered; or the error. -/
def PushesAndGoes (i : Instr) (value target : State → Word) (s : State) : Prop :=
  (∀ t, store16 s (s.sp - 2#16) (value s) = .ok t →
    exec i s = .next { t with sp := s.sp - 2#16, pc := target s }) ∧
  (∀ e, store16 s (s.sp - 2#16) (value s) = .error e → exec i s = .fault e)

/-- A return: the word at `sp` goes to `pc`, `sp` is raised; or the error. -/
def PopsToPc (i : Instr) (s : State) : Prop :=
  (∀ w, load16 s s.sp = .ok w → exec i s = .next { s with sp := s.sp + 2#16, pc := w }) ∧
  (∀ e, load16 s s.sp = .error e → exec i s = .fault e)

/-! ## What the spec lists -/

/-- A cell of the flag table of 10_state.md R25: unchanged, forced 0, forced 1, computed. -/
inductive FlagEffect where
  | kept
  | zero
  | one
  | computed
  deriving DecidableEq, Repr

/-- What a cell of R25 says of a flag before and after. -/
def FlagEffect.Allows (e : FlagEffect) (before after : Bool) : Prop :=
  match e with
  | .kept => after = before
  | .zero => after = false
  | .one => after = true
  | .computed => True

/-- A row of R25: Z, N, H, C. -/
structure FlagRow where
  z : FlagEffect
  n : FlagEffect
  h : FlagEffect
  c : FlagEffect
  deriving DecidableEq, Repr

/-- POP's row of R25: AF overwrites the flags from the popped byte, the other pairs write none. -/
def popFlagRow : Rp2 → FlagRow
  | .AF => ⟨.computed, .computed, .computed, .computed⟩
  | .BC | .DE | .HL => ⟨.kept, .kept, .kept, .kept⟩

/-- The table of R25, row by row; an instruction not in it writes no flag. -/
def flagRow : Instr → FlagRow
  | .addAR _ | .addAHL | .addAD8 _ | .adcAR _ | .adcAHL | .adcAD8 _ => ⟨.computed, .zero, .computed, .computed⟩
  | .subR _ | .subHL | .subD8 _ | .sbcAR _ | .sbcAHL | .sbcAD8 _ | .cpR _ | .cpHL | .cpD8 _ =>
    ⟨.computed, .one, .computed, .computed⟩
  | .andR _ | .andHL | .andD8 _ => ⟨.computed, .zero, .one, .zero⟩
  | .xorR _ | .xorHL | .xorD8 _ | .orR _ | .orHL | .orD8 _ => ⟨.computed, .zero, .zero, .zero⟩
  | .incR _ | .incHL => ⟨.computed, .zero, .computed, .kept⟩
  | .decR _ | .decHL => ⟨.computed, .one, .computed, .kept⟩
  | .addHLRr _ => ⟨.kept, .zero, .computed, .computed⟩
  | .addSPE8 _ | .ldHLSPE8 _ => ⟨.zero, .zero, .computed, .computed⟩
  | .rlca | .rla | .rrca | .rra => ⟨.zero, .zero, .zero, .computed⟩
  | .rlcT _ | .rrcT _ | .rlT _ | .rrT _ | .slaT _ | .sraT _ | .srlT _ => ⟨.computed, .zero, .zero, .computed⟩
  | .swapT _ => ⟨.computed, .zero, .zero, .zero⟩
  | .bitBT _ _ => ⟨.computed, .zero, .one, .kept⟩
  | .cpl => ⟨.kept, .one, .one, .kept⟩
  | .ccf => ⟨.kept, .zero, .zero, .computed⟩
  | .scf => ⟨.kept, .zero, .zero, .one⟩
  | .daa => ⟨.computed, .kept, .zero, .computed⟩
  | .popRr rr => popFlagRow rr
  | .nop | .ldA16SP _ | .stop _ | .jrE8 _ | .jrCcE8 _ _ | .ldRrD16 _ _ | .ldBCA | .ldDEA | .ldHLIncA | .ldHLDecA
  | .ldABC | .ldADE | .ldAHLInc | .ldAHLDec | .incRr _ | .decRr _ | .ldRD8 _ _ | .ldHLD8 _ | .ldRR _ _ | .ldRHL _
  | .ldHLR _ | .halt | .retCc _ | .ldhA8A _ | .ldhAA8 _ | .ret | .reti | .jpHL | .ldSPHL | .jpCcA16 _ _ | .ldCA
  | .ldAC | .ldA16A _ | .ldAA16 _ | .jpA16 _ | .prefixCB | .di | .ei | .callCcA16 _ _ | .pushRr _ | .callA16 _
  | .rstN _ | .undefD3 | .undefDB | .undefDD | .undefE3 | .undefE4 | .undefEB | .undefEC | .undefED | .undefF4
  | .undefFC | .undefFD | .resBT _ _ | .setBT _ _ => ⟨.kept, .kept, .kept, .kept⟩

/-- The registers of a pair of `rp`; SP is none of the seven. -/
def rpRegs : Rp → List Reg8
  | .BC => [.B, .C]
  | .DE => [.D, .E]
  | .HL => [.H, .L]
  | .SP => []

/-- The general registers of a pair of `rp2`. -/
def rp2Regs : Rp2 → List Reg8
  | .BC => [.B, .C]
  | .DE => [.D, .E]
  | .HL => [.H, .L]
  | .AF => [.A]

/-- The register of a target. -/
def selRegs : Sel8 → List Reg8
  | .reg r => [r]
  | .hlInd => []

/-- The general registers an instruction may write: its destination, A for the ALU family and the other implicit users
of A, and H, L where HL is modified (10_state.md R21). -/
def writtenRegs : Instr → List Reg8
  | .ldRR r _ | .ldRD8 r _ | .ldRHL r | .incR r | .decR r => [r]
  | .ldHLIncA | .ldHLDecA => [.H, .L]
  | .ldAHLInc | .ldAHLDec => [.A, .H, .L]
  | .ldABC | .ldADE | .ldAA16 _ | .ldhAA8 _ | .ldAC => [.A]
  | .ldRrD16 rr _ | .incRr rr | .decRr rr => rpRegs rr
  | .ldHLSPE8 _ | .addHLRr _ => [.H, .L]
  | .addAR _ | .addAHL | .addAD8 _ | .adcAR _ | .adcAHL | .adcAD8 _ | .subR _ | .subHL | .subD8 _
  | .sbcAR _ | .sbcAHL | .sbcAD8 _ | .andR _ | .andHL | .andD8 _ | .xorR _ | .xorHL | .xorD8 _
  | .orR _ | .orHL | .orD8 _ | .rlca | .rla | .rrca | .rra | .cpl | .daa => [.A]
  | .rlcT t | .rrcT t | .rlT t | .rrT t | .slaT t | .sraT t | .swapT t | .srlT t | .resBT _ t | .setBT _ t =>
    selRegs t
  | .popRr rr => rp2Regs rr
  | .nop | .ldA16SP _ | .stop _ | .jrE8 _ | .jrCcE8 _ _ | .ldBCA | .ldDEA | .incHL | .decHL | .ldHLD8 _ | .scf
  | .ccf | .ldHLR _ | .halt | .cpR _ | .cpHL | .cpD8 _ | .retCc _ | .ldhA8A _ | .addSPE8 _ | .ret | .reti | .jpHL
  | .ldSPHL | .jpCcA16 _ _ | .ldCA | .ldA16A _ | .jpA16 _ | .prefixCB | .di | .ei | .callCcA16 _ _ | .pushRr _
  | .callA16 _ | .rstN _ | .undefD3 | .undefDB | .undefDD | .undefE3 | .undefE4 | .undefEB | .undefEC | .undefED
  | .undefF4 | .undefFC | .undefFD | .bitBT _ _ => []

/-- The instructions that write `sp` (10_state.md R30). -/
def writesSp : Instr → Bool
  | .ldRrD16 rr _ | .incRr rr | .decRr rr => decide (rr = .SP)
  | .pushRr _ | .popRr _ | .callA16 _ | .callCcA16 _ _ | .ret | .retCc _ | .reti | .rstN _ | .ldSPHL
  | .addSPE8 _ => true
  | .nop | .ldA16SP _ | .stop _ | .jrE8 _ | .jrCcE8 _ _ | .addHLRr _ | .ldBCA | .ldDEA | .ldHLIncA | .ldHLDecA
  | .ldABC | .ldADE | .ldAHLInc | .ldAHLDec | .incR _ | .incHL | .decR _ | .decHL | .ldRD8 _ _ | .ldHLD8 _ | .rlca
  | .rrca | .rla | .rra | .daa | .cpl | .scf | .ccf | .ldRR _ _ | .ldRHL _ | .ldHLR _ | .halt | .addAR _ | .addAHL
  | .adcAR _ | .adcAHL | .subR _ | .subHL | .sbcAR _ | .sbcAHL | .andR _ | .andHL | .xorR _ | .xorHL | .orR _
  | .orHL | .cpR _ | .cpHL | .addAD8 _ | .adcAD8 _ | .subD8 _ | .sbcAD8 _ | .andD8 _ | .xorD8 _ | .orD8 _
  | .cpD8 _ | .ldhA8A _ | .ldhAA8 _ | .ldHLSPE8 _ | .jpHL | .jpCcA16 _ _ | .ldCA | .ldAC | .ldA16A _ | .ldAA16 _
  | .jpA16 _ | .prefixCB | .di | .ei | .undefD3 | .undefDB | .undefDD | .undefE3 | .undefE4 | .undefEB | .undefEC
  | .undefED | .undefF4 | .undefFC | .undefFD | .rlcT _ | .rrcT _ | .rlT _ | .rrT _ | .slaT _ | .sraT _ | .swapT _
  | .srlT _ | .bitBT _ _ | .resBT _ _ | .setBT _ _ => false

/-- The control transfers of 10_state.md R28, with the condition each depends on. -/
def transferCond : Instr → Option (Option Cond)
  | .jrE8 _ | .jpA16 _ | .jpHL | .callA16 _ | .ret | .reti | .rstN _ => some none
  | .jrCcE8 cc _ | .jpCcA16 cc _ | .callCcA16 cc _ | .retCc cc => some (some cc)
  | .nop | .ldA16SP _ | .stop _ | .ldRrD16 _ _ | .addHLRr _ | .ldBCA | .ldDEA | .ldHLIncA | .ldHLDecA | .ldABC
  | .ldADE | .ldAHLInc | .ldAHLDec | .incRr _ | .decRr _ | .incR _ | .incHL | .decR _ | .decHL | .ldRD8 _ _
  | .ldHLD8 _ | .rlca | .rrca | .rla | .rra | .daa | .cpl | .scf | .ccf | .ldRR _ _ | .ldRHL _ | .ldHLR _ | .halt
  | .addAR _ | .addAHL | .adcAR _ | .adcAHL | .subR _ | .subHL | .sbcAR _ | .sbcAHL | .andR _ | .andHL | .xorR _
  | .xorHL | .orR _ | .orHL | .cpR _ | .cpHL | .addAD8 _ | .adcAD8 _ | .subD8 _ | .sbcAD8 _ | .andD8 _ | .xorD8 _
  | .orD8 _ | .cpD8 _ | .ldhA8A _ | .ldhAA8 _ | .addSPE8 _ | .ldHLSPE8 _ | .popRr _ | .ldSPHL | .ldCA | .ldAC
  | .ldA16A _ | .ldAA16 _ | .prefixCB | .di | .ei | .pushRr _ | .undefD3 | .undefDB | .undefDD | .undefE3
  | .undefE4 | .undefEB | .undefEC | .undefED | .undefF4 | .undefFC | .undefFD | .rlcT _ | .rrcT _ | .rlT _
  | .rrT _ | .slaT _ | .sraT _ | .swapT _ | .srlT _ | .bitBT _ _ | .resBT _ _ | .setBT _ _ => none

/-- Whether the instruction, in this state, transfers control. -/
def transfers (i : Instr) (s : State) : Bool :=
  match transferCond i with
  | none => false
  | some none => true
  | some (some cc) => s.f.cond cc

/-- Where a read-modify-write of a target stores. -/
def selStore (s : State) : Sel8 → Option (Word × Nat)
  | .reg _ => none
  | .hlInd => some (s.hl, 1)

/-- Where an instruction stores, and how many bytes: the address its meaning computes. `none`: it stores nothing. -/
def storesAt (i : Instr) (s : State) : Option (Word × Nat) :=
  match i with
  | .ldHLR _ | .ldHLD8 _ | .ldHLIncA | .ldHLDecA | .incHL | .decHL => some (s.hl, 1)
  | .ldBCA => some (s.bc, 1)
  | .ldDEA => some (s.de, 1)
  | .ldA16A a => some (a, 1)
  | .ldhA8A o => some (highPage o, 1)
  | .ldCA => some (highPage s.c, 1)
  | .ldA16SP a => some (a, 2)
  | .rlcT t | .rrcT t | .rlT t | .rrT t | .slaT t | .sraT t | .swapT t | .srlT t | .resBT _ t | .setBT _ t =>
    selStore s t
  | .pushRr _ | .callA16 _ | .rstN _ => some (s.sp - 2#16, 2)
  | .callCcA16 cc _ => if s.f.cond cc then some (s.sp - 2#16, 2) else none
  | .nop | .stop _ | .jrE8 _ | .jrCcE8 _ _ | .ldRrD16 _ _ | .addHLRr _ | .ldABC | .ldADE | .ldAHLInc | .ldAHLDec
  | .incRr _ | .decRr _ | .incR _ | .decR _ | .ldRD8 _ _ | .rlca | .rrca | .rla | .rra | .daa | .cpl | .scf | .ccf
  | .ldRR _ _ | .ldRHL _ | .halt | .addAR _ | .addAHL | .adcAR _ | .adcAHL | .subR _ | .subHL | .sbcAR _ | .sbcAHL
  | .andR _ | .andHL | .xorR _ | .xorHL | .orR _ | .orHL | .cpR _ | .cpHL | .addAD8 _ | .adcAD8 _ | .subD8 _
  | .sbcAD8 _ | .andD8 _ | .xorD8 _ | .orD8 _ | .cpD8 _ | .retCc _ | .ldhAA8 _ | .addSPE8 _ | .ldHLSPE8 _
  | .popRr _ | .ret | .reti | .jpHL | .ldSPHL | .jpCcA16 _ _ | .ldAC | .ldAA16 _ | .jpA16 _ | .prefixCB | .di
  | .ei | .undefD3 | .undefDB | .undefDD | .undefE3 | .undefE4 | .undefEB | .undefEC | .undefED | .undefF4
  | .undefFC | .undefFD | .bitBT _ _ => none

/-- The address is one of the bytes the instruction stores. -/
def IsStored (i : Instr) (s : State) (a : Word) : Prop :=
  ∃ w n, storesAt i s = some (w, n) ∧ ∃ k, k < n ∧ a = w + BitVec.ofNat 16 k

/-- The address lies outside the cartridge's window: if any device answers there, it is a Memory Region (20_memory.md
R54). -/
def OutsideCartridge (s : State) (a : Word) : Prop :=
  ¬(s.cart.window.base ≤ a.toNat ∧ a.toNat < s.cart.window.base + s.cart.window.len)

/-- The control port of a Type1 cartridge (20_memory.md R67). -/
def InControlPort (a : Word) : Prop := 0x2000 ≤ a.toNat ∧ a.toNat ≤ 0x3FFF

/-- The switchable window of a Type1 cartridge (20_memory.md R66). -/
def InSwitchable (a : Word) : Prop := 0x4000 ≤ a.toNat ∧ a.toNat ≤ 0x7FFF

/-- The bytes at consecutive addresses from `a`, all loadable. -/
def BytesAt (s : State) (a : Word) : List Byte → Prop
  | [] => True
  | b :: rest => busLoad s a = .ok b ∧ BytesAt s (a + 1#16) rest

/-- The eleven undefined primary bytes (30_encoding.md R112), each with its row. -/
def undefinedRows : List (Byte × Instr) :=
  [(0xD3#8, .undefD3), (0xDB#8, .undefDB), (0xDD#8, .undefDD), (0xE3#8, .undefE3), (0xE4#8, .undefE4),
   (0xEB#8, .undefEB), (0xEC#8, .undefEC), (0xED#8, .undefED), (0xF4#8, .undefF4), (0xFC#8, .undefFC),
   (0xFD#8, .undefFD)]

/-- The 28 tier X opcodes (30_encoding.md R110). -/
def tierXOpcodes : List Byte :=
  [0x02#8, 0x07#8, 0x08#8, 0x09#8, 0x0A#8, 0x0F#8, 0x10#8, 0x12#8, 0x17#8, 0x19#8, 0x1A#8, 0x1F#8, 0x27#8, 0x29#8,
   0x37#8, 0x39#8, 0x76#8, 0xD9#8, 0xE0#8, 0xE2#8, 0xE8#8, 0xE9#8, 0xEA#8, 0xF0#8, 0xF2#8, 0xF8#8, 0xF9#8, 0xFA#8]

/-- The primary bytes that miss the table under the parameters (60_exceptions.md R303): the undefined bytes always;
HALT and STOP under `HALT_STOP_MODE = unknown_opcode`; the tier X opcodes under `source_families`. -/
def Misses (p : Params) (b0 : Byte) : Prop :=
  (∃ i, (b0, i) ∈ undefinedRows) ∨
  (p.haltStop = .unknownOpcode ∧ (b0 = 0x76#8 ∨ b0 = 0x10#8)) ∨
  (p.extent = .sourceFamilies ∧ b0 ∈ tierXOpcodes)

end Sys2Proof.Claims

open Sys2Proof Sys2Proof.Machine Sys2Proof.Claims

/-! ## Reset and construction -/

/-- 70_reset_and_hazards.md R330 with the variant of 20_memory.md R60, R61, for every IMAGE and every parameter: what a
machine that construction gives holds. The default of `REG_RESET` and what an unlisted byte of `RAM_INIT` is are log
entries 3 and 4 and play no part here. That a ReadOnly region is filled from the same map as the ReadWrite ones is the
model's choice, log entry 11. -/
def Obligations.ConstructionGivesResetState : Prop :=
  ∀ (b : BuildParams) (img : Image) (s : State), construct b img = .next s →
    s.pc = 0x0100#16 ∧ s.sp = 0x0000#16 ∧
    (s.a = b.regReset.a ∧ s.b = b.regReset.b ∧ s.c = b.regReset.c ∧ s.d = b.regReset.d ∧ s.e = b.regReset.e ∧
      s.h = b.regReset.h ∧ s.l = b.regReset.l ∧ s.f = b.regReset.f) ∧
    b.typeMap (img.byte 0x147) ≠ none ∧
    (b.typeMap (img.byte 0x147) = some .type0 → s.cart = .type0 img) ∧
    (b.typeMap (img.byte 0x147) = some .type1 → s.cart = .type1 img 0) ∧
    (b.typeMap = BuildParams.default.typeMap →
      (img.byte 0x147 = 0x00#8 ∧ s.cart = .type0 img) ∨ (img.byte 0x147 = 0x01#8 ∧ s.cart = .type1 img 0)) ∧
    s.par = b.par ∧
    ∀ a : Nat, (b.par.regions.any fun r => inWindow r a) = true → memGet s.mem a = cellsGet unlistedByte b.ramInit a

/-- 70_reset_and_hazards.md R333 with the default parameters: exactly the images construction accepts. -/
def Obligations.ConstructionSucceedsExactlyOnFittingImages : Prop :=
  ∀ img : Image, (∃ s, construct BuildParams.default img = .next s) ↔
    0x14A ≤ img.len ∧
    ((img.byte 0x147 = 0x00#8 ∧ img.len ≤ 0x8000) ∨
     (img.byte 0x147 = 0x01#8 ∧ (img.byte 0x148).toNat ≤ 8 ∧ img.len = 16384 * 2 ^ ((img.byte 0x148).toNat + 1)))

/-- 60_exceptions.md R310: the two construction errors, each in its cases, for every parameter. -/
def Obligations.ConstructionErrorsAreNamed : Prop :=
  ∀ (b : BuildParams) (img : Image),
    (img.len < 0x14A → construct b img = .fault .imageGeometryMismatch) ∧
    (0x14A ≤ img.len → b.typeMap (img.byte 0x147) = none →
      construct b img = .fault (.unsupportedCartridgeType (img.byte 0x147))) ∧
    (b.typeMap (img.byte 0x147) = some .type0 → 0x8000 < img.len →
      construct b img = .fault .imageGeometryMismatch) ∧
    (0x14A ≤ img.len → b.typeMap (img.byte 0x147) = some .type1 →
      (∀ n, b.romBanks (img.byte 0x148) = some n → img.len ≠ n * 16384) →
      construct b img = .fault .imageGeometryMismatch)

/-- The state the model names as reset is what construction with R6's defaults gives on the blank image (log entry 2:
the choice of that image is the model's). -/
def Obligations.ResetStateIsConstructed : Prop :=
  construct BuildParams.default blankImage = .next State.reset ∧
  constructBytes BuildParams.default (List.replicate 0x8000 0x00#8) = .next State.reset

/-! ## Memory Regions, cartridges, bus -/

/-- 20_memory.md R51, R52: the bound check first, then the permission; a store changes its byte and no other. That an
access out of range is the kind UnmappedAddress is the spec's own decision D17 (R51). -/
def Obligations.MemoryRegionLoadAndStore : Prop :=
  ∀ (fill : Byte) (r : Region) (bytes : Cells) (a : Word) (v : Byte),
    (¬(r.base ≤ a.toNat ∧ a.toNat < r.base + r.len) →
      regionLoad fill r bytes a = .error (.unmappedAddress a) ∧
      regionStore fill r bytes a v = .error (.unmappedAddress a)) ∧
    (r.base ≤ a.toNat ∧ a.toNat < r.base + r.len →
      regionLoad fill r bytes a = .ok (cellsGet fill bytes a.toNat) ∧
      (r.perm = .readOnly → regionStore fill r bytes a v = .error (.permissionDenied a)) ∧
      (r.perm = .readWrite → ∃ bytes', regionStore fill r bytes a v = .ok bytes' ∧
        cellsGet fill bytes' a.toNat = v ∧ ∀ k, k ≠ a.toNat → cellsGet fill bytes' k = cellsGet fill bytes k))

/-- 20_memory.md R54, with R53's order of devices: an address is the cartridge's if its window holds it, else the first
region's whose window holds it, else nobody's. -/
def Obligations.BusRoutesByAddressRange : Prop :=
  ∀ (s : State) (a : Word) (v : Byte),
    (¬OutsideCartridge s a →
      busLoad s a = cartLoad s.cart a ∧
      (∀ c, cartStore s.par.bankOor s.cart a v = .ok c → busStore s a v = .ok { s with cart := c }) ∧
      (∀ e, cartStore s.par.bankOor s.cart a v = .error e → busStore s a v = .error e)) ∧
    (OutsideCartridge s a →
      ∀ before r after, s.par.regions = before ++ r :: after → (∀ q ∈ before, inWindow q a.toNat = false) →
        inWindow r a.toNat = true →
        busLoad s a = regionLoad unlistedByte r s.mem a ∧
        (∀ m, regionStore unlistedByte r s.mem a v = .ok m → busStore s a v = .ok { s with mem := m }) ∧
        (∀ e, regionStore unlistedByte r s.mem a v = .error e → busStore s a v = .error e)) ∧
    (OutsideCartridge s a →
      (∀ q ∈ s.par.regions, inWindow q a.toNat = false) →
      busLoad s a = .error (.unmappedAddress a) ∧ busStore s a v = .error (.unmappedAddress a))

/-- 20_memory.md R64 through the bus: a Type0 cartridge reads its image and refuses every store inside it; the control
range is no exception. -/
def Obligations.TypeZeroCartridgeIsReadOnly : Prop :=
  ∀ (s : State) (img : Image) (a : Word) (v : Byte), s.cart = .type0 img → a.toNat < img.len →
    busLoad s a = .ok (img.byte a.toNat) ∧ busStore s a v = .error (.permissionDenied a)

/-- 20_memory.md R66: a Type1 cartridge reads the fixed bank below 0x4000, the mapped bank from 0x4000 to 0x7FFF, and
fails elsewhere. -/
def Obligations.TypeOneCartridgeLoads : Prop :=
  ∀ (img : Image) (sel : Nat) (a : Word),
    (a.toNat ≤ 0x3FFF → cartLoad (.type1 img sel) a = .ok (img.byte a.toNat)) ∧
    (0x4000 ≤ a.toNat → a.toNat ≤ 0x7FFF →
      cartLoad (.type1 img sel) a = .ok (img.byte (0x4000 * (sel + 1) + (a.toNat - 0x4000)))) ∧
    (0x8000 ≤ a.toNat → cartLoad (.type1 img sel) a = .error (.unmappedAddress a))

/-- 20_memory.md R67, R68, R69: the control port selects bank `max(value, 1) - 1`, by policy where no such bank exists;
every other store fails. No byte of the image changes. -/
def Obligations.TypeOneCartridgeStores : Prop :=
  ∀ (policy : BankOorPolicy) (img : Image) (sel : Nat) (a : Word) (v : Byte),
    (0x2000 ≤ a.toNat → a.toNat ≤ 0x3FFF →
      (max v.toNat 1 - 1 < img.nsw →
        cartStore policy (.type1 img sel) a v = .ok (.type1 img (max v.toNat 1 - 1))) ∧
      (img.nsw ≤ max v.toNat 1 - 1 →
        (policy = .fault → cartStore policy (.type1 img sel) a v = .error (.unmappedAddress a)) ∧
        (policy = .wrap → cartStore policy (.type1 img sel) a v = .ok (.type1 img ((max v.toNat 1 - 1) % img.nsw))) ∧
        (policy = .ignore → cartStore policy (.type1 img sel) a v = .ok (.type1 img sel)))) ∧
    (a.toNat ≤ 0x1FFF ∨ (0x4000 ≤ a.toNat ∧ a.toNat ≤ 0x7FFF) →
      cartStore policy (.type1 img sel) a v = .error (.permissionDenied a)) ∧
    (0x8000 ≤ a.toNat → cartStore policy (.type1 img sel) a v = .error (.unmappedAddress a))

/-- 20_memory.md R76: a store either changes exactly the addressed byte of a region, or is a bank select, which changes
`bank_sel` and no byte, and repeating it changes nothing more. -/
def Obligations.StoreChangesOneByteOrTheBank : Prop :=
  ∀ (s t : State) (a : Word) (v : Byte), busStore s a v = .ok t →
    (t.cart = s.cart ∧ busLoad t a = .ok v ∧ (∀ k, k ≠ a → busLoad t k = busLoad s k) ∧
      (∀ m, m ≠ a.toNat → memGet t.mem m = memGet s.mem m) ∧ t = { s with mem := t.mem }) ∨
    (InControlPort a ∧ (∃ img sel sel', s.cart = .type1 img sel ∧ t = { s with cart := .type1 img sel' }) ∧
      (∀ k, ¬InSwitchable k → busLoad t k = busLoad s k) ∧ busStore t a v = .ok t)

/-- 20_memory.md R57, R59: a 16-bit load is two byte loads, the low byte at the lower address, the second address taken
modulo 65536; the first error is returned. -/
def Obligations.WordLoadIsTwoByteLoads : Prop :=
  ∀ (s : State) (a : Word),
    (∀ lo hi, busLoad s a = .ok lo → busLoad s (a + 1#16) = .ok hi →
      ∃ w, load16 s a = .ok w ∧ w.toNat = hi.toNat * 256 + lo.toNat) ∧
    (∀ e, busLoad s a = .error e → load16 s a = .error e) ∧
    (∀ lo e, busLoad s a = .ok lo → busLoad s (a + 1#16) = .error e → load16 s a = .error e) ∧
    ((0xFFFF#16 : Word) + 1 = 0x0000#16)

/-- 20_memory.md R58: a 16-bit store is all or nothing; both halves are checked against the state before; then the low
byte and then the high byte are stored. -/
def Obligations.WordStoreIsAllOrNothing : Prop :=
  ∀ (s : State) (a w : Word) (lo hi : Byte), lo.toNat = w.toNat % 256 → hi.toNat = w.toNat / 256 →
    (∀ e, busStore s a lo = .error e → store16 s a w = .error e) ∧
    (∀ t e, busStore s a lo = .ok t → busStore s (a + 1#16) hi = .error e → store16 s a w = .error e) ∧
    (∀ t u, busStore s a lo = .ok t → busStore s (a + 1#16) hi = .ok u →
      ∃ t2, busStore t (a + 1#16) hi = .ok t2 ∧ store16 s a w = .ok t2)

/-- 20_memory.md R73: what a 16-bit store leaves in RAM, read byte by byte and as a word. -/
def Obligations.WordStoreIsLittleEndian : Prop :=
  ∀ (s t : State) (a w : Word), store16 s a w = .ok t → OutsideCartridge s a → OutsideCartridge s (a + 1#16) →
    load16 t a = .ok w ∧
    (∃ lo hi, busLoad t a = .ok lo ∧ busLoad t (a + 1#16) = .ok hi ∧ lo.toNat = w.toNat % 256 ∧ hi.toNat = w.toNat / 256) ∧
    ∀ k, k ≠ a → k ≠ a + 1#16 → busLoad t k = busLoad s k

/-- 10_state.md R22, R24: the pair accessors. Writing back what was read is identity; reading what was written gives it
back, for AF with the low four bits cleared; the first-named half is the high byte; each name of the maps `rp` and `rp2`
reads its own pair. -/
def Obligations.PairAccessorsRoundTrip : Prop :=
  ∀ (s : State) (v : Word),
    (∀ rr, s.setRp2 rr (s.rp2 rr) = s) ∧
    (∀ rr, rr ≠ Rp2.AF → (s.setRp2 rr v).rp2 rr = v) ∧
    (s.setRp2 .AF v).rp2 .AF = v &&& 0xFFF0#16 ∧
    (s.bc.toNat = s.b.toNat * 256 + s.c.toNat ∧ s.de.toNat = s.d.toNat * 256 + s.e.toNat ∧
      s.hl.toNat = s.h.toNat * 256 + s.l.toNat ∧
      s.af.toNat = s.a.toNat * 256 +
        (s.f.z.toNat * 0x80 + s.f.n.toNat * 0x40 + s.f.h.toNat * 0x20 + s.f.c.toNat * 0x10)) ∧
    (s.rp2 .BC = s.bc ∧ s.rp2 .DE = s.de ∧ s.rp2 .HL = s.hl ∧ s.rp2 .AF = s.af) ∧
    (s.rp .BC = s.bc ∧ s.rp .DE = s.de ∧ s.rp .HL = s.hl ∧ s.rp .SP = s.sp)

/-! ## Encoding -/

/-- Decode of encode is the instruction, for every whole instruction with every operand, whatever bytes follow. The
undefined bytes are among them as rows of the opcode table (log entry 9). -/
def Obligations.DecodeOfEncodeIsTheInstruction : Prop :=
  ∀ (i : Instr) (rest : List Byte), i.WellFormed → decodeRow (encode i ++ rest) = .ok (i, rest)

/-- Encode of decode is the bytes read: no two byte strings decode to one instruction, and no bit is dropped. That an
undefined byte is a row, of length 1, is the model's choice (log entry 9). -/
def Obligations.EncodeOfDecodeIsTheBytes : Prop :=
  ∀ (bytes rest : List Byte) (i : Instr), decodeRow bytes = .ok (i, rest) →
    i.WellFormed ∧ bytes = encode i ++ rest ∧ (encode i).length = i.length

/-- 30_encoding.md R111: the extended table is total, and every entry is in the table under every parameter and two
bytes long. -/
def Obligations.ExtendedTableIsTotal : Prop :=
  ∀ (p : Params) (b1 : Byte) (rest : List Byte),
    decode p (0xCB#8 :: b1 :: rest) = .ok (decodeExtended b1, rest) ∧
    (decodeExtended b1).decodes p = true ∧ (decodeExtended b1).length = 2 ∧
    encode (decodeExtended b1) = [0xCB#8, b1]

/-- 30_encoding.md R101: the length is fixed by the first byte alone and is 1, 2 or 3. The undefined bytes, for which the
spec gives no length (R112), and the prefix, whose instructions are two bytes long (R113, `ExtendedTableIsTotal`), are
not first bytes of a primary instruction. -/
def Obligations.FirstByteFixesTheLength : Prop :=
  ∀ (b0 o1 o2 o1' o2' : Byte), b0 ≠ 0xCB#8 → (∀ i, (b0, i) ∉ undefinedRows) →
    (primaryRow b0 o1 o2).length = (primaryRow b0 o1' o2').length ∧
    1 ≤ (primaryRow b0 o1 o2).length ∧ (primaryRow b0 o1 o2).length ≤ 3

/-- 60_exceptions.md R303, 30_encoding.md R110, R112: `decode_primary` misses exactly on the bytes the rule lists, under
every value of the parameters; the prefix is never looked up. -/
def Obligations.PrimaryTableMissesExactlyTheListedBytes : Prop :=
  ∀ (p : Params) (b0 o1 o2 : Byte), b0 ≠ 0xCB#8 →
    (decodePrimary p b0 o1 o2 = none ↔ Misses p b0) ∧
    (¬Misses p b0 → decodePrimary p b0 o1 o2 = some (primaryRow b0 o1 o2))

/-- Words written out from the encodings of the instruction rules, one of every family (30_encoding.md R101 to R111). -/
def Obligations.SampleWordsDecodeAsTheRulesSay : Prop :=
  decodeRow [0x41#8] = .ok (.ldRR .B .C, []) ∧
  decodeRow [0x36#8, 0x5A#8] = .ok (.ldHLD8 0x5A#8, []) ∧
  decodeRow [0x21#8, 0x00#8, 0xC0#8] = .ok (.ldRrD16 .HL 0xC000#16, []) ∧
  decodeRow [0x9C#8] = .ok (.sbcAR .H, []) ∧
  decodeRow [0x39#8] = .ok (.addHLRr .SP, []) ∧
  decodeRow [0xCB#8, 0x2E#8] = .ok (.sraT .hlInd, []) ∧
  decodeRow [0xCB#8, 0xCB#8] = .ok (.setBT 1 (.reg .E), []) ∧
  decodeRow [0xDC#8, 0x34#8, 0x12#8] = .ok (.callCcA16 .C 0x1234#16, []) ∧
  decodeRow [0x20#8, 0xFE#8] = .ok (.jrCcE8 .NZ 0xFE#8, []) ∧
  decodeRow [0xEF#8] = .ok (.rstN 5, []) ∧
  decodeRow [0x27#8] = .ok (.daa, []) ∧
  decode Params.default [0x76#8] = .error (.unknownOpcode 0x76#8) ∧
  decode Params.default [0xDD#8] = .error (.unknownOpcode 0xDD#8)

/-! ## The step -/

/-- 30_encoding.md R100: where the bytes at `pc` are a whole instruction of the table, the step runs it; `pc` is moved
by the instruction's own meaning. -/
def Obligations.StepRunsTheDecodedInstruction : Prop :=
  ∀ (s : State) (bytes : List Byte) (i : Instr),
    BytesAt s s.pc bytes → decode s.par bytes = .ok (i, []) → step s = exec i s

/-- 60_exceptions.md R307, the fetch and decode part of the priority: the opcode byte's error; then UnknownOpcode,
whatever follows; then the error of the second byte or of the operand bytes in ascending order. That the byte after STOP
is one of those under `stuck` is the model's choice (log entry 8). -/
def Obligations.FirstErrorOfFetchIsReported : Prop :=
  ∀ s : State,
    (∀ e, busLoad s s.pc = .error e → step s = .fault e) ∧
    (∀ b0, busLoad s s.pc = .ok b0 → b0 ≠ 0xCB#8 → Misses s.par b0 → step s = .fault (.unknownOpcode b0)) ∧
    (∀ e, busLoad s s.pc = .ok 0xCB#8 → busLoad s (s.pc + 1#16) = .error e → step s = .fault e) ∧
    (∀ b0 e, busLoad s s.pc = .ok b0 → b0 ≠ 0xCB#8 → ¬Misses s.par b0 → 2 ≤ (primaryRow b0 0#8 0#8).length →
      busLoad s (s.pc + 1#16) = .error e → step s = .fault e) ∧
    (∀ b0 o1 e, busLoad s s.pc = .ok b0 → b0 ≠ 0xCB#8 → ¬Misses s.par b0 → (primaryRow b0 0#8 0#8).length = 3 →
      busLoad s (s.pc + 1#16) = .ok o1 → busLoad s (s.pc + 2#16) = .error e → step s = .fault e)

/-- 60_exceptions.md R305 and the end of R300: only three kinds of error can end a step, InvalidOperand and the
construction kinds never; and no step is refused. -/
def Obligations.OnlyThreeErrorKindsEndAStep : Prop :=
  ∀ s : State, (∀ r, step s ≠ .refused r) ∧
    ∀ e, step s = .fault e → e.kind = .unmappedAddress ∨ e.kind = .permissionDenied ∨ e.kind = .unknownOpcode

/-- 60_exceptions.md R302: only an instruction that stores ends with PermissionDenied, and a load never does. -/
def Obligations.OnlyStoresArePermissionDenied : Prop :=
  (∀ (s : State) (a k : Word), busLoad s a ≠ .error (.permissionDenied k)) ∧
  ∀ (i : Instr) (s : State) (k : Word), i.WellFormed → exec i s = .fault (.permissionDenied k) → IsStored i s k

/-- 60_exceptions.md R304, R317: after a failed step under `precise` the state is the state before, and the next
request gives the same response and state again; under `unspecified` memory and `bank_sel` are unchanged. -/
def Obligations.FailedStepChangesNothing : Prop :=
  ∀ (cycles : Instr → Bool → Nat) (s t : State) (kind : ErrorKind), StepPort cycles s (.err kind) t →
    (s.par.faultState = .precise →
      t = s ∧ ∀ (r : Response) (u : State), StepPort cycles t r u → r = .err kind ∧ u = s) ∧
    t.mem = s.mem ∧ t.cart = s.cart

/-- 70_reset_and_hazards.md R346: two machines that differ only in `CYCLES` reach the same state, with the same error
kind where the step fails; and the step port's next state is the step's. -/
def Obligations.CyclesNeverChangeTheState : Prop :=
  ∀ (c1 c2 : Instr → Bool → Nat) (s : State),
    (∀ n t, StepPort c1 s (.ok n) t → step s = .next t ∧ ∃ m, StepPort c2 s (.ok m) t) ∧
    (∀ k t, StepPort c1 s (.err k) t → StepPort c2 s (.err k) t) ∧
    (∀ t, step s = .next t → ∃ n, StepPort c1 s (.ok n) t)

/-! ## Invariants -/

/-- Every step keeps the invariant: canonical memory inside the regions, an image that is never changed, `bank_sel`
below NSW ("the mapped bank reference is always valid"), disjoint windows. -/
def Obligations.StepKeepsTheInvariant : Prop :=
  ∀ s t : State, s.Inv → step s = .next t → t.Inv

/-- The invariant holds at reset; State.reset's image, registers and unlisted RAM byte are the model's choice (log entries
2, 3, 4). -/
def Obligations.ResetMeetsTheInvariant : Prop := State.reset.Inv

/-- The invariant holds of every machine construction gives from a canonical image. -/
def Obligations.ConstructionMeetsTheInvariant : Prop :=
  ∀ (b : BuildParams) (img : Image) (s : State), img.wf = true → construct b img = .next s → s.Inv

/-- 20_memory.md R65, 00_scope.md R14: no step changes an image byte, the cartridge variant or a parameter; of a Type1
cartridge only `bank_sel` can change. That the parameters stand in the field `par` is log entry 1. -/
def Obligations.StepKeepsImageAndParameters : Prop :=
  ∀ s t : State, step s = .next t →
    t.par = s.par ∧ t.cart.image = s.cart.image ∧ t.cart.window = s.cart.window ∧
    ((∃ img, s.cart = .type0 img) → t.cart = s.cart) ∧
    (∀ img sel, s.cart = .type1 img sel → ∃ sel', t.cart = .type1 img sel')

/-! ## Results: loads -/

/-- 40_load8.md R130 to R132, R137, R138, R141, R142, R144, R146, R148: every 8-bit load of a register, and the error of
those from memory. The first four clauses say what the register operations they are stated with read and write (00_scope.md
R8, 10_state.md R22): `x[r]`, `x[r] <- v`, `xx[HL] <- w`, each its own field and nothing else. -/
def Obligations.ByteLoadsComplete : Prop :=
  (∀ (s : State) (r q : Reg8) (v : Byte), (s.setReg r v).reg q = if q = r then v else s.reg q) ∧
  (∀ s : State, s.reg .A = s.a ∧ s.reg .B = s.b ∧ s.reg .C = s.c ∧ s.reg .D = s.d ∧ s.reg .E = s.e ∧ s.reg .H = s.h ∧
    s.reg .L = s.l) ∧
  (∀ (s : State) (v : Byte), s.setReg .A v = { s with a := v } ∧ s.setReg .B v = { s with b := v } ∧
    s.setReg .C v = { s with c := v } ∧ s.setReg .D v = { s with d := v } ∧ s.setReg .E v = { s with e := v } ∧
    s.setReg .H v = { s with h := v } ∧ s.setReg .L v = { s with l := v }) ∧
  (∀ (s : State) (w : Word), s.setHl w = { s with h := w.extractLsb' 8 8, l := w.setWidth 8 }) ∧
  (∀ (s : State) (r r' : Reg8), exec (.ldRR r r') s = .next { s.setReg r (s.reg r') with pc := s.pc + 1#16 }) ∧
  (∀ (s : State) (r : Reg8) (d8 : Byte), exec (.ldRD8 r d8) s = .next { s.setReg r d8 with pc := s.pc + 2#16 }) ∧
  (∀ r, LoadsFrom (.ldRHL r) State.hl fun s v => { s.setReg r v with pc := s.pc + 1#16 }) ∧
  (LoadsFrom .ldAHLInc State.hl fun s v => { s.setHl (moved s.hl 1) with a := v, pc := s.pc + 1#16 }) ∧
  (LoadsFrom .ldAHLDec State.hl fun s v => { s.setHl (moved s.hl (-1)) with a := v, pc := s.pc + 1#16 }) ∧
  (LoadsFrom .ldABC State.bc fun s v => { s with a := v, pc := s.pc + 1#16 }) ∧
  (LoadsFrom .ldADE State.de fun s v => { s with a := v, pc := s.pc + 1#16 }) ∧
  (∀ a16, LoadsFrom (.ldAA16 a16) (fun _ => a16) fun s v => { s with a := v, pc := s.pc + 3#16 }) ∧
  (∀ a8, LoadsFrom (.ldhAA8 a8) (fun _ => 0xFF#8 ++ a8) fun s v => { s with a := v, pc := s.pc + 2#16 }) ∧
  (LoadsFrom .ldAC (fun s => 0xFF#8 ++ s.c) fun s v => { s with a := v, pc := s.pc + 1#16 })

/-- 40_load8.md R133 to R136, R139, R140, R143, R145, R147: every 8-bit store, and its error. -/
def Obligations.ByteStoresComplete : Prop :=
  (∀ r, StoresTo (.ldHLR r) State.hl (fun s => s.reg r) fun s t => { t with pc := s.pc + 1#16 }) ∧
  (∀ d8, StoresTo (.ldHLD8 d8) State.hl (fun _ => d8) fun s t => { t with pc := s.pc + 2#16 }) ∧
  (StoresTo .ldHLIncA State.hl State.a fun s t => { t.setHl (moved s.hl 1) with pc := s.pc + 1#16 }) ∧
  (StoresTo .ldHLDecA State.hl State.a fun s t => { t.setHl (moved s.hl (-1)) with pc := s.pc + 1#16 }) ∧
  (StoresTo .ldBCA State.bc State.a fun s t => { t with pc := s.pc + 1#16 }) ∧
  (StoresTo .ldDEA State.de State.a fun s t => { t with pc := s.pc + 1#16 }) ∧
  (∀ a16, StoresTo (.ldA16A a16) (fun _ => a16) State.a fun s t => { t with pc := s.pc + 3#16 }) ∧
  (∀ a8, StoresTo (.ldhA8A a8) (fun _ => 0xFF#8 ++ a8) State.a fun s t => { t with pc := s.pc + 2#16 }) ∧
  (StoresTo .ldCA (fun s => 0xFF#8 ++ s.c) State.a fun s t => { t with pc := s.pc + 1#16 })

/-- 41_load16.md R160 to R163: `LD rr,d16`, `LD SP,HL`, `LD HL,SP+e8`, `LD (a16),SP` with its error. -/
def Obligations.WordLoadsComplete : Prop :=
  ∀ s : State,
    (∀ d, exec (.ldRrD16 .BC d) s = .next { s with b := d.extractLsb' 8 8, c := d.setWidth 8, pc := s.pc + 3#16 }) ∧
    (∀ d, exec (.ldRrD16 .DE d) s = .next { s with d := d.extractLsb' 8 8, e := d.setWidth 8, pc := s.pc + 3#16 }) ∧
    (∀ d, exec (.ldRrD16 .HL d) s = .next { s with h := d.extractLsb' 8 8, l := d.setWidth 8, pc := s.pc + 3#16 }) ∧
    (∀ d, exec (.ldRrD16 .SP d) s = .next { s with sp := d, pc := s.pc + 3#16 }) ∧
    (exec .ldSPHL s = .next { s with sp := s.hl, pc := s.pc + 1#16 }) ∧
    (∀ e8, exec (.ldHLSPE8 e8) s =
      .next { s.setHl (moved s.sp (signed8 e8)) with f := r203Flags s.sp e8, pc := s.pc + 2#16 }) ∧
    (∀ a t, store16 s a s.sp = .ok t → exec (.ldA16SP a) s = .next { t with pc := s.pc + 3#16 }) ∧
    (∀ a e, store16 s a s.sp = .error e → exec (.ldA16SP a) s = .fault e)

/-! ## Results: arithmetic and logic -/

/-- 42_alu8.md R170 with R172 to R177: ADD and ADC, all operand forms, both values of `CARRY_IN_FLAG_MODE`. -/
def Obligations.AddAndAdcFollowTheRule : Prop :=
  AluForms .addAR .addAHL .addAD8 (fun s n v => onA s n (r170 s.par.carryIn false s.a v)) ∧
  AluForms .adcAR .adcAHL .adcAD8 (fun s n v => onA s n (r170 s.par.carryIn s.f.c s.a v))

/-- 42_alu8.md R171 with R178 to R183 and R193 to R195: SUB, SBC and CP, all operand forms, both modes; CP writes no
register. -/
def Obligations.SubSbcAndCpFollowTheRule : Prop :=
  AluForms .subR .subHL .subD8 (fun s n v => onA s n (r171 s.par.carryIn false s.a v)) ∧
  AluForms .sbcAR .sbcAHL .sbcAD8 (fun s n v => onA s n (r171 s.par.carryIn s.f.c s.a v)) ∧
  AluForms .cpR .cpHL .cpD8
    (fun s n v => { s with f := (r171 s.par.carryIn false s.a v).2, pc := s.pc + n })

/-- 42_alu8.md R184 to R192: AND, XOR, OR, all operand forms. -/
def Obligations.LogicFollowsTheRule : Prop :=
  AluForms .andR .andHL .andD8 (fun s n v => onA s n (s.a &&& v, ⟨(s.a &&& v).toNat == 0, false, true, false⟩)) ∧
  AluForms .xorR .xorHL .xorD8 (fun s n v => onA s n (s.a ^^^ v, ⟨(s.a ^^^ v).toNat == 0, false, false, false⟩)) ∧
  AluForms .orR .orHL .orD8 (fun s n v => onA s n (s.a ||| v, ⟨(s.a ||| v).toNat == 0, false, false, false⟩))

/-- 42_alu8.md R196 to R199: INC and DEC of a register and of the byte at HL; C unchanged. -/
def Obligations.IncAndDecFollowTheRule : Prop :=
  (∀ r, ModifiesReg (.incR r) r 1 r196) ∧ ModifiesHL .incHL 1 r196 ∧
  (∀ r, ModifiesReg (.decR r) r 1 r198) ∧ ModifiesHL .decHL 1 r198

/-- 43_alu16.md R200, R201: INC and DEC of a pair or SP, modulo 65536, no flag. -/
def Obligations.PairIncAndDecWrap : Prop :=
  ∀ (s : State) (rr : Rp),
    exec (.incRr rr) s = .next { s.setRp rr (moved (s.rp rr) 1) with pc := s.pc + 1#16 } ∧
    exec (.decRr rr) s = .next { s.setRp rr (moved (s.rp rr) (-1)) with pc := s.pc + 1#16 } ∧
    (∀ w : Word, (s.setRp rr w).rp rr = w ∧ (s.setRp rr w).f = s.f)

/-- 43_alu16.md R202, R203: `ADD HL,rr` with the carries out of bits 11 and 15 and Z kept; `ADD SP,e8`. -/
def Obligations.WordAdditionsFollowTheRule : Prop :=
  ∀ s : State,
    (∀ rr, exec (.addHLRr rr) s =
      .next { s.setHl (BitVec.ofNat 16 (s.hl.toNat + (s.rp rr).toNat)) with
        f := ⟨s.f.z, false, decide ((s.hl &&& 0x0FFF#16).toNat + (s.rp rr &&& 0x0FFF#16).toNat > 0x0FFF),
          decide (s.hl.toNat + (s.rp rr).toNat > 0xFFFF)⟩,
        pc := s.pc + 1#16 }) ∧
    (∀ e8, exec (.addSPE8 e8) s =
      .next { s with sp := moved s.sp (signed8 e8), f := r203Flags s.sp e8, pc := s.pc + 2#16 })

/-! ## Results: rotates and bits -/

/-- 44_rotate_shift.md R222 with R210 to R217: the eight extended operations on all eight targets. -/
def Obligations.RotatesAndShiftsFollowTheRule : Prop :=
  ModifiesTarget .rlcT (r222 0) ∧ ModifiesTarget .rrcT (r222 1) ∧ ModifiesTarget .rlT (r222 2) ∧
  ModifiesTarget .rrT (r222 3) ∧ ModifiesTarget .slaT (r222 4) ∧ ModifiesTarget .sraT (r222 5) ∧
  ModifiesTarget .swapT (r222 6) ∧ ModifiesTarget .srlT (r222 7)

/-- 44_rotate_shift.md R218 to R221: RLCA, RLA, RRCA, RRA are operations 0, 2, 1, 3 on A, with Z cleared. -/
def Obligations.AccumulatorRotatesClearZ : Prop :=
  ∀ s : State,
    exec .rlca s = .next (onA s 1 ((r222 0 s.f s.a).1, ⟨false, false, false, (r222 0 s.f s.a).2.c⟩)) ∧
    exec .rla s = .next (onA s 1 ((r222 2 s.f s.a).1, ⟨false, false, false, (r222 2 s.f s.a).2.c⟩)) ∧
    exec .rrca s = .next (onA s 1 ((r222 1 s.f s.a).1, ⟨false, false, false, (r222 1 s.f s.a).2.c⟩)) ∧
    exec .rra s = .next (onA s 1 ((r222 3 s.f s.a).1, ⟨false, false, false, (r222 3 s.f s.a).2.c⟩))

/-- 45_bit.md R230: BIT on every bit and target; Z is 1 exactly when the bit is 0, C kept, nothing stored. -/
def Obligations.BitTestsWithoutWriting : Prop :=
  ∀ (s : State) (b : Fin 8),
    (∀ r, exec (.bitBT b (.reg r)) s =
      .next { s with f := ⟨(s.reg r).toNat / 2 ^ b.val % 2 == 0, false, true, s.f.c⟩, pc := s.pc + 2#16 }) ∧
    (∀ v, busLoad s s.hl = .ok v → exec (.bitBT b .hlInd) s =
      .next { s with f := ⟨v.toNat / 2 ^ b.val % 2 == 0, false, true, s.f.c⟩, pc := s.pc + 2#16 }) ∧
    (∀ e, busLoad s s.hl = .error e → exec (.bitBT b .hlInd) s = .fault e)

/-- 45_bit.md R231, R232: RES and SET on every bit and target, flags kept: the bit is cleared or set, the other seven
kept. -/
def Obligations.ResAndSetChangeOneBit : Prop :=
  ∀ b : Fin 8,
    ModifiesTarget (.resBT b) (fun f v =>
      (BitVec.ofNat 8 (if v.toNat.testBit b then v.toNat - 2 ^ b.val else v.toNat), f)) ∧
    ModifiesTarget (.setBT b) (fun f v =>
      (BitVec.ofNat 8 (if v.toNat.testBit b then v.toNat else v.toNat + 2 ^ b.val), f))

/-! ## Results: stack and control -/

/-- 46_stack_call.md R240, R241, R242: PUSH and POP of every pair, and their errors. -/
def Obligations.PushAndPopMoveTheStack : Prop :=
  ∀ (s : State) (rr : Rp2),
    PushesAndGoes (.pushRr rr) (fun s => s.rp2 rr) (fun s => s.pc + 1#16) s ∧
    (∀ w, load16 s s.sp = .ok w →
      exec (.popRr rr) s = .next { s.setRp2 rr w with sp := s.sp + 2#16, pc := s.pc + 1#16 }) ∧
    (∀ e, load16 s s.sp = .error e → exec (.popRr rr) s = .fault e)

/-- The source's stack round trip (46_stack_call.md R240, R241, R242): a push then a pop of another pair moves the value
and restores `sp`, wherever the pushed bytes are RAM. -/
def Obligations.PushThenPopGivesTheValueBack : Prop :=
  ∀ (s t : State) (rr qq : Rp2), exec (.pushRr rr) s = .next t →
    OutsideCartridge s (s.sp - 2#16) → OutsideCartridge s (s.sp - 1#16) →
    ∃ u, exec (.popRr qq) t = .next u ∧ u.sp = s.sp ∧
      (qq ≠ .AF → u.rp2 qq = s.rp2 rr) ∧ (qq = .AF → u.rp2 qq = s.rp2 rr &&& 0xFFF0#16)

/-- 46_stack_call.md R243, R244, R247: CALL, CALL cc and RST: the return address pushed and `pc` at the target; a
condition that fails touches neither stack nor memory. -/
def Obligations.CallsPushTheReturnAddress : Prop :=
  ∀ s : State,
    (∀ a, PushesAndGoes (.callA16 a) (fun s => s.pc + 3#16) (fun _ => a) s) ∧
    (∀ cc a, s.f.cond cc = true → PushesAndGoes (.callCcA16 cc a) (fun s => s.pc + 3#16) (fun _ => a) s) ∧
    (∀ cc a, s.f.cond cc = false → exec (.callCcA16 cc a) s = .next { s with pc := s.pc + 3#16 }) ∧
    (∀ y : Fin 8, s.par.rstBias = .one →
      PushesAndGoes (.rstN y) (fun s => s.pc + 1#16) (fun _ => BitVec.ofNat 16 (8 * y.val)) s) ∧
    (∀ y : Fin 8, s.par.rstBias = .two →
      PushesAndGoes (.rstN y) (fun s => s.pc + 2#16) (fun _ => BitVec.ofNat 16 (8 * y.val)) s)

/-- 46_stack_call.md R245, R246, R248: RET, RET cc and RETI. -/
def Obligations.ReturnsPopIntoPc : Prop :=
  ∀ s : State, PopsToPc .ret s ∧ PopsToPc .reti s ∧
    (∀ cc, s.f.cond cc = true → PopsToPc (.retCc cc) s) ∧
    (∀ cc, s.f.cond cc = false → exec (.retCc cc) s = .next { s with pc := s.pc + 1#16 })

/-- 47_jump.md R260 to R264 with the conditions of 30_encoding.md R106: the target of every jump, and the next
instruction where the condition fails. -/
def Obligations.JumpsGoToTheirTarget : Prop :=
  ∀ s : State,
    (∀ e8, exec (.jrE8 e8) s = .next { s with pc := moved s.pc (2 + signed8 e8) }) ∧
    (∀ a, exec (.jpA16 a) s = .next { s with pc := a }) ∧
    (exec .jpHL s = .next { s with pc := s.hl }) ∧
    ∀ cc, ∀ holds : Bool,
      (holds = match cc with | .NZ => !s.f.z | .Z => s.f.z | .NC => !s.f.c | .C => s.f.c) →
      (∀ e8, exec (.jrCcE8 cc e8) s = .next { s with pc := if holds then moved s.pc (2 + signed8 e8) else s.pc + 2#16 }) ∧
      (∀ a, exec (.jpCcA16 cc a) s = .next { s with pc := if holds then a else s.pc + 3#16 })

/-! ## Results: miscellaneous -/

/-- 48_misc.md R270 to R275: NOP, DI, EI, CPL, CCF, SCF. -/
def Obligations.MiscellaneousFollowTheRule : Prop :=
  ∀ s : State,
    exec .nop s = .next { s with pc := s.pc + 1#16 } ∧
    exec .di s = .next { s with pc := s.pc + 1#16 } ∧
    exec .ei s = .next { s with pc := s.pc + 1#16 } ∧
    exec .cpl s = .next (onA s 1 (BitVec.ofNat 8 (255 - s.a.toNat), ⟨s.f.z, true, true, s.f.c⟩)) ∧
    exec .ccf s = .next { s with f := ⟨s.f.z, false, false, !s.f.c⟩, pc := s.pc + 1#16 } ∧
    exec .scf s = .next { s with f := ⟨s.f.z, false, false, true⟩, pc := s.pc + 1#16 }

/-- 48_misc.md R276: DAA for every A and every N, H, C. -/
def Obligations.DaaFollowsTheRule : Prop :=
  ∀ s : State, exec .daa s = .next (onA s 1 (r276 s.f s.a))

/-- 48_misc.md R277, R278: HALT and STOP. Under `stuck` they complete with no state change; under `unknown_opcode` they
raise UnknownOpcode; and the step does the same on their bytes under `reference_full`. -/
def Obligations.HaltAndStopByMode : Prop :=
  ∀ (s : State) (pad : Byte),
    (s.par.haltStop = .stuck → exec .halt s = .next s ∧ exec (.stop pad) s = .next s) ∧
    (s.par.haltStop = .unknownOpcode →
      exec .halt s = .fault (.unknownOpcode 0x76#8) ∧ exec (.stop pad) s = .fault (.unknownOpcode 0x10#8)) ∧
    (s.par.extent = .referenceFull → busLoad s s.pc = .ok 0x76#8 →
      (s.par.haltStop = .stuck → step s = .next s) ∧
      (s.par.haltStop = .unknownOpcode → step s = .fault (.unknownOpcode 0x76#8))) ∧
    (s.par.extent = .referenceFull → busLoad s s.pc = .ok 0x10#8 →
      (s.par.haltStop = .stuck → busLoad s (s.pc + 1#16) = .ok pad → step s = .next s) ∧
      (s.par.haltStop = .unknownOpcode → step s = .fault (.unknownOpcode 0x10#8)))

/-- 48_misc.md R280: an undefined byte raises UnknownOpcode, as a row and as the byte a step fetches, under every
parameter. -/
def Obligations.UndefinedBytesRaiseUnknownOpcode : Prop :=
  ∀ (s : State) (b0 : Byte) (i : Instr), (b0, i) ∈ undefinedRows →
    exec i s = .fault (.unknownOpcode b0) ∧
    (busLoad s s.pc = .ok b0 → step s = .fault (.unknownOpcode b0)) ∧
    ∀ o1 o2, primaryRow b0 o1 o2 = i ∧ decodePrimary s.par b0 o1 o2 = none

/-- The prefix row runs the extended instruction of the byte after it and completes on every register target: that the
bare prefix has a row with this meaning is the model's choice, log entry 9, since 48_misc.md R279 says that the byte is no
instruction. Last clause, R279: a step on the byte 0xCB does the same, prefix and byte in one step. -/
def Obligations.PrefixRunsTheExtendedInstruction : Prop :=
  ∀ s : State,
    (∀ b1, busLoad s (s.pc + 1#16) = .ok b1 → exec .prefixCB s = exec (decodeExtended b1) s) ∧
    (∀ e, busLoad s (s.pc + 1#16) = .error e → exec .prefixCB s = .fault e) ∧
    (∀ b1, busLoad s (s.pc + 1#16) = .ok b1 → b1.toNat % 8 ≠ 6 → ∃ t, exec .prefixCB s = .next t) ∧
    (∀ b1, busLoad s (s.pc + 1#16) = .ok b1 → busLoad s s.pc = .ok 0xCB#8 → step s = exec .prefixCB s)

/-! ## Frames -/

/-- 10_state.md R25: every flag of every instruction is as its row of the table says. -/
def Obligations.FlagsFollowTheWriterTable : Prop :=
  ∀ (i : Instr) (s t : State), i.WellFormed → exec i s = .next t →
    (flagRow i).z.Allows s.f.z t.f.z ∧ (flagRow i).n.Allows s.f.n t.f.n ∧
    (flagRow i).h.Allows s.f.h t.f.h ∧ (flagRow i).c.Allows s.f.c t.f.c

/-- 10_state.md R21: no instruction changes a general register that is not its destination, HL's modification among
them. -/
def Obligations.OtherRegistersAreKept : Prop :=
  ∀ (i : Instr) (s t : State) (r : Reg8), i.WellFormed → exec i s = .next t → r ∉ writtenRegs i → t.reg r = s.reg r

/-- 10_state.md R30: `sp` changes only by the instructions the rule lists; a CALL or RET whose condition fails keeps
it. -/
def Obligations.StackPointerHasOnlyItsWriters : Prop :=
  ∀ (i : Instr) (s t : State), i.WellFormed → exec i s = .next t →
    (writesSp i = false ∨ (transferCond i ≠ none ∧ transfers i s = false)) → t.sp = s.sp

/-- 10_state.md R28: an instruction that does not transfer control ends at the next instruction. HALT and STOP under
`stuck` leave `pc` (48_misc.md R277, R278). -/
def Obligations.PcAdvancesByTheLength : Prop :=
  ∀ (i : Instr) (s t : State), i.WellFormed → exec i s = .next t → transfers i s = false →
    i ≠ .halt → (∀ pad, i ≠ .stop pad) → t.pc = s.pc + BitVec.ofNat 16 i.length

/-- Memory frame: every byte outside the stored ones reads as before, but for the switchable window where a bank select
was made; the cartridge changes only by a store to the control port (20_memory.md R76). An instruction that stores
nothing changes no byte and no bank. -/
def Obligations.BytesNotStoredAreKept : Prop :=
  ∀ (i : Instr) (s t : State), i.WellFormed → exec i s = .next t →
    (∀ a, ¬IsStored i s a → (t.cart = s.cart ∨ ¬InSwitchable a) → busLoad t a = busLoad s a) ∧
    (t.cart ≠ s.cart → ∃ a, IsStored i s a ∧ InControlPort a) ∧
    (storesAt i s = none → t.mem = s.mem ∧ t.cart = s.cart)

/-- 70_reset_and_hazards.md R342, 20_memory.md R81: a bank select is in effect for the very next fetch, at the `npc` of
the selecting instruction: every load from the window reads the new bank, and where the bytes of the new bank at `npc`
are an instruction, the next step runs it. -/
def Obligations.BankSelectActsOnTheNextFetch : Prop :=
  ∀ (s : State) (img : Image) (sel : Nat) (d8 : Byte),
    s.cart = .type1 img sel → InControlPort s.hl → max d8.toNat 1 - 1 < img.nsw →
    ∃ t, exec (.ldHLD8 d8) s = .next t ∧ t.pc = s.pc + 2#16 ∧ t.cart = .type1 img (max d8.toNat 1 - 1) ∧
      (∀ a, InSwitchable a →
        busLoad t a = .ok (img.byte (0x4000 * max d8.toNat 1 + (a.toNat - 0x4000)))) ∧
      ∀ (bytes : List Byte) (i : Instr),
        (∀ k b, bytes[k]? = some b → InSwitchable (t.pc + BitVec.ofNat 16 k) ∧
          b = img.byte (0x4000 * max d8.toNat 1 + ((t.pc + BitVec.ofNat 16 k).toNat - 0x4000))) →
        decode s.par bytes = .ok (i, []) → step t = exec i t

/-- 20_memory.md R81: a store to RAM is seen by every later fetch: one-byte instruction `i` stored where `pc` comes to
stand is the instruction the next step runs. -/
def Obligations.StoredByteIsFetchedNext : Prop :=
  ∀ (s t : State) (i : Instr) (op : Byte), s.hl = s.pc + 1#16 → exec (.ldHLR .A) s = .next t →
    OutsideCartridge s s.hl → s.a = op → decode s.par [op] = .ok (i, []) → step t = exec i t
end

