-- ==== Sys2Proof/Laws/Cells.lean ====
section
/-! SUPPORT. The sparse bytes: read after write, other keys kept, the canonical form kept by every write, and equal
contents in canonical form are equal data. -/

namespace Sys2Proof.Machine

theorem cellsGet_cellsErase (fill : Byte) (a k : Nat) (m : Cells) :
    cellsGet fill (cellsErase a m) k = if k = a then fill else cellsGet fill m k := by
  induction m with
  | nil => simp [cellsErase, cellsGet]
  | cons c rest ih =>
    obtain ⟨k', v⟩ := c
    simp only [cellsErase, List.filter_cons] at ih ⊢
    by_cases h : k' = a
    · subst h
      simp only [bne_self_eq_false, Bool.false_eq_true, if_false, cellsGet, ih]
      split <;> rfl
    · by_cases hk : k = k'
      · subst hk; simp [h, cellsGet]
      · simp [h, cellsGet, ih, hk]

theorem cellsGet_cellsInsert_ne (fill v : Byte) {a k : Nat} (h : k ≠ a) (m : Cells) :
    cellsGet fill (cellsInsert a v m) k = cellsGet fill m k := by
  induction m with
  | nil => simp [cellsInsert, cellsGet, h]
  | cons c rest ih =>
    obtain ⟨k', w⟩ := c
    by_cases hl : a < k' <;> simp [cellsInsert, hl, cellsGet, ih, h]

theorem cellsGet_cellsInsert_self (fill v : Byte) {a : Nat} (m : Cells) (h : ∀ c ∈ m, c.1 ≠ a) :
    cellsGet fill (cellsInsert a v m) a = v := by
  induction m with
  | nil => simp [cellsInsert, cellsGet]
  | cons c rest ih =>
    obtain ⟨k', w⟩ := c
    have hk : a ≠ k' := fun e => h (k', w) (by simp) e.symm
    by_cases hl : a < k'
    · simp [cellsInsert, hl, cellsGet]
    · simpa [cellsInsert, hl, cellsGet, hk] using ih fun c hc => h c (List.mem_cons_of_mem _ hc)

theorem not_mem_cellsErase (a : Nat) (m : Cells) : ∀ c ∈ cellsErase a m, c.1 ≠ a := by
  simp [cellsErase]

/-- A byte written is the byte read at its key, and no other key changes: of any list, canonical or not. -/
theorem cellsGet_cellsPut (fill v : Byte) (m : Cells) (a k : Nat) :
    cellsGet fill (cellsPut fill m a v) k = if k = a then v else cellsGet fill m k := by
  unfold cellsPut
  split
  · rename_i h; rw [cellsGet_cellsErase, h]
  · by_cases hk : k = a
    · subst hk; simp [cellsGet_cellsInsert_self fill v _ (not_mem_cellsErase k m)]
    · simp [cellsGet_cellsInsert_ne fill v hk, cellsGet_cellsErase, hk]

theorem mem_cellsInsert {a : Nat} {v : Byte} {m : Cells} {c : Host.Cell} :
    c ∈ cellsInsert a v m ↔ c = (a, v) ∨ c ∈ m := by
  induction m with
  | nil => simp [cellsInsert]
  | cons d rest ih =>
    obtain ⟨k', w⟩ := d
    by_cases hl : a < k' <;> simp [cellsInsert, hl, ih]
    tauto

/-- A write lists no key but its own beside those listed before. -/
theorem mem_cellsPut {fill v : Byte} {m : Cells} {a : Nat} {c : Host.Cell} (h : c ∈ cellsPut fill m a v) :
    c = (a, v) ∨ c ∈ m := by
  unfold cellsPut cellsErase at h
  split at h
  · exact .inr (List.mem_of_mem_filter h)
  · exact (mem_cellsInsert.mp h).imp id List.mem_of_mem_filter

theorem cellsWf_cons {fill : Byte} {c : Host.Cell} {m : Cells} :
    cellsWf fill (c :: m) = true ↔ c.2 ≠ fill ∧ (∀ d ∈ m, c.1 < d.1) ∧ cellsWf fill m = true := by
  obtain ⟨k, v⟩ := c
  simp [cellsWf, and_assoc]

theorem cellsWf_cellsErase {fill : Byte} {m : Cells} (a : Nat) (h : cellsWf fill m = true) :
    cellsWf fill (cellsErase a m) = true := by
  induction m with
  | nil => exact h
  | cons c rest ih =>
    rw [cellsWf_cons] at h
    obtain ⟨h1, h2, h3⟩ := h
    have := ih h3
    simp only [cellsErase, List.filter_cons] at this ⊢
    split
    · exact cellsWf_cons.mpr ⟨h1, fun d hd => h2 d (List.mem_of_mem_filter hd), this⟩
    · exact this

theorem cellsWf_cellsInsert {fill v : Byte} {m : Cells} {a : Nat} (hv : v ≠ fill) (hne : ∀ c ∈ m, c.1 ≠ a)
    (h : cellsWf fill m = true) : cellsWf fill (cellsInsert a v m) = true := by
  induction m with
  | nil => simp [cellsInsert, cellsWf, hv]
  | cons c rest ih =>
    obtain ⟨k, w⟩ := c
    obtain ⟨h1, h2, h3⟩ := cellsWf_cons.mp h
    have hk := hne (k, w) (by simp)
    by_cases hl : a < k
    · simp only [cellsInsert, hl, if_true]
      refine cellsWf_cons.mpr ⟨hv, fun d hd => ?_, h⟩
      rcases List.mem_cons.mp hd with rfl | hd
      · exact hl
      · exact Nat.lt_trans hl (h2 d hd)
    · simp only [cellsInsert, hl, if_false]
      refine cellsWf_cons.mpr ⟨h1, fun d hd => ?_, ih (fun c hc => hne c (List.mem_cons_of_mem _ hc)) h3⟩
      rcases mem_cellsInsert.mp hd with rfl | hd
      · simp only at hk ⊢; omega
      · exact h2 d hd

/-- Every write keeps the canonical form. -/
theorem cellsWf_cellsPut {fill : Byte} {m : Cells} (a : Nat) (v : Byte) (h : cellsWf fill m = true) :
    cellsWf fill (cellsPut fill m a v) = true := by
  unfold cellsPut
  split
  · exact cellsWf_cellsErase a h
  · exact cellsWf_cellsInsert ‹_› (not_mem_cellsErase a m) (cellsWf_cellsErase a h)

/-- The least listed key of a canonical list reads as its byte; every lower key reads as `fill`. -/
theorem cellsGet_of_lt {fill : Byte} {m : Cells} {k : Nat} (h : ∀ d ∈ m, k < d.1) : cellsGet fill m k = fill := by
  induction m with
  | nil => rfl
  | cons c rest ih =>
    obtain ⟨k', w⟩ := c
    have hk : k ≠ k' := Nat.ne_of_lt (h (k', w) (by simp))
    simpa [cellsGet, hk] using ih fun d hd => h d (List.mem_cons_of_mem _ hd)

/-- Canonical forms with the same contents are the same list. -/
theorem cells_ext {fill : Byte} {m n : Cells} (hm : cellsWf fill m = true) (hn : cellsWf fill n = true)
    (h : ∀ k, cellsGet fill m k = cellsGet fill n k) : m = n := by
  induction m generalizing n with
  | nil =>
    cases n with
    | nil => rfl
    | cons d rest =>
      have := h d.1
      simp [cellsGet] at this
      exact absurd this.symm (cellsWf_cons.mp hn).1
  | cons c rest ih =>
    obtain ⟨c1, c2, c3⟩ := cellsWf_cons.mp hm
    cases n with
    | nil =>
      have := h c.1
      simp [cellsGet] at this
      exact absurd this c1
    | cons d rest' =>
      obtain ⟨d1, d2, d3⟩ := cellsWf_cons.mp hn
      obtain ⟨k, v⟩ := c
      obtain ⟨k', v'⟩ := d
      have hk : k = k' := by
        rcases Nat.lt_trichotomy k k' with hlt | heq | hgt
        · have := h k
          rw [cellsGet_of_lt (m := (k', v') :: rest')] at this
          · simp [cellsGet] at this; exact absurd this c1
          · intro d hd
            rcases List.mem_cons.mp hd with rfl | hd
            · exact hlt
            · exact Nat.lt_trans hlt (d2 d hd)
        · exact heq
        · have := h k'
          rw [cellsGet_of_lt (m := (k, v) :: rest)] at this
          · simp [cellsGet] at this; exact absurd this.symm d1
          · intro d hd
            rcases List.mem_cons.mp hd with rfl | hd
            · exact hgt
            · exact Nat.lt_trans hgt (c2 d hd)
      subst hk
      have hv := h k
      simp only [cellsGet, if_true] at hv
      subst hv
      refine congrArg _ (ih c3 d3 fun q => ?_)
      have := h q
      by_cases hq : q = k
      · subst hq; rw [cellsGet_of_lt c2, cellsGet_of_lt d2]
      · simpa [cellsGet, hq] using this

end Sys2Proof.Machine
end

