-- ==== Sys2Proof/Laws/State.lean ====
section
/-! SUPPORT. One lemma per field and update, so that no proof unfolds a record update, and the register file's read
after write. -/

namespace Sys2Proof.Machine

/-! ## Fields after an update -/

@[simp] theorem State.setF_a (s : State) (f : Flags) : (s.setF f).a = s.a := rfl
@[simp] theorem State.setF_b (s : State) (f : Flags) : (s.setF f).b = s.b := rfl
@[simp] theorem State.setF_c (s : State) (f : Flags) : (s.setF f).c = s.c := rfl
@[simp] theorem State.setF_d (s : State) (f : Flags) : (s.setF f).d = s.d := rfl
@[simp] theorem State.setF_e (s : State) (f : Flags) : (s.setF f).e = s.e := rfl
@[simp] theorem State.setF_h (s : State) (f : Flags) : (s.setF f).h = s.h := rfl
@[simp] theorem State.setF_l (s : State) (f : Flags) : (s.setF f).l = s.l := rfl
@[simp] theorem State.setF_f (s : State) (f : Flags) : (s.setF f).f = f := rfl
@[simp] theorem State.setF_sp (s : State) (f : Flags) : (s.setF f).sp = s.sp := rfl
@[simp] theorem State.setF_pc (s : State) (f : Flags) : (s.setF f).pc = s.pc := rfl
@[simp] theorem State.setF_cart (s : State) (f : Flags) : (s.setF f).cart = s.cart := rfl
@[simp] theorem State.setF_mem (s : State) (f : Flags) : (s.setF f).mem = s.mem := rfl
@[simp] theorem State.setF_par (s : State) (f : Flags) : (s.setF f).par = s.par := rfl

@[simp] theorem State.setSp_a (s : State) (v : Word) : (s.setSp v).a = s.a := rfl
@[simp] theorem State.setSp_b (s : State) (v : Word) : (s.setSp v).b = s.b := rfl
@[simp] theorem State.setSp_c (s : State) (v : Word) : (s.setSp v).c = s.c := rfl
@[simp] theorem State.setSp_d (s : State) (v : Word) : (s.setSp v).d = s.d := rfl
@[simp] theorem State.setSp_e (s : State) (v : Word) : (s.setSp v).e = s.e := rfl
@[simp] theorem State.setSp_h (s : State) (v : Word) : (s.setSp v).h = s.h := rfl
@[simp] theorem State.setSp_l (s : State) (v : Word) : (s.setSp v).l = s.l := rfl
@[simp] theorem State.setSp_f (s : State) (v : Word) : (s.setSp v).f = s.f := rfl
@[simp] theorem State.setSp_sp (s : State) (v : Word) : (s.setSp v).sp = v := rfl
@[simp] theorem State.setSp_pc (s : State) (v : Word) : (s.setSp v).pc = s.pc := rfl
@[simp] theorem State.setSp_cart (s : State) (v : Word) : (s.setSp v).cart = s.cart := rfl
@[simp] theorem State.setSp_mem (s : State) (v : Word) : (s.setSp v).mem = s.mem := rfl
@[simp] theorem State.setSp_par (s : State) (v : Word) : (s.setSp v).par = s.par := rfl

@[simp] theorem State.setPc_a (s : State) (v : Word) : (s.setPc v).a = s.a := rfl
@[simp] theorem State.setPc_b (s : State) (v : Word) : (s.setPc v).b = s.b := rfl
@[simp] theorem State.setPc_c (s : State) (v : Word) : (s.setPc v).c = s.c := rfl
@[simp] theorem State.setPc_d (s : State) (v : Word) : (s.setPc v).d = s.d := rfl
@[simp] theorem State.setPc_e (s : State) (v : Word) : (s.setPc v).e = s.e := rfl
@[simp] theorem State.setPc_h (s : State) (v : Word) : (s.setPc v).h = s.h := rfl
@[simp] theorem State.setPc_l (s : State) (v : Word) : (s.setPc v).l = s.l := rfl
@[simp] theorem State.setPc_f (s : State) (v : Word) : (s.setPc v).f = s.f := rfl
@[simp] theorem State.setPc_sp (s : State) (v : Word) : (s.setPc v).sp = s.sp := rfl
@[simp] theorem State.setPc_pc (s : State) (v : Word) : (s.setPc v).pc = v := rfl
@[simp] theorem State.setPc_cart (s : State) (v : Word) : (s.setPc v).cart = s.cart := rfl
@[simp] theorem State.setPc_mem (s : State) (v : Word) : (s.setPc v).mem = s.mem := rfl
@[simp] theorem State.setPc_par (s : State) (v : Word) : (s.setPc v).par = s.par := rfl

@[simp] theorem State.setBc_a (s : State) (v : Word) : (s.setBc v).a = s.a := rfl
@[simp] theorem State.setBc_b (s : State) (v : Word) : (s.setBc v).b = hi8 v := rfl
@[simp] theorem State.setBc_c (s : State) (v : Word) : (s.setBc v).c = lo8 v := rfl
@[simp] theorem State.setBc_d (s : State) (v : Word) : (s.setBc v).d = s.d := rfl
@[simp] theorem State.setBc_e (s : State) (v : Word) : (s.setBc v).e = s.e := rfl
@[simp] theorem State.setBc_h (s : State) (v : Word) : (s.setBc v).h = s.h := rfl
@[simp] theorem State.setBc_l (s : State) (v : Word) : (s.setBc v).l = s.l := rfl
@[simp] theorem State.setBc_f (s : State) (v : Word) : (s.setBc v).f = s.f := rfl
@[simp] theorem State.setBc_sp (s : State) (v : Word) : (s.setBc v).sp = s.sp := rfl
@[simp] theorem State.setBc_pc (s : State) (v : Word) : (s.setBc v).pc = s.pc := rfl
@[simp] theorem State.setBc_cart (s : State) (v : Word) : (s.setBc v).cart = s.cart := rfl
@[simp] theorem State.setBc_mem (s : State) (v : Word) : (s.setBc v).mem = s.mem := rfl
@[simp] theorem State.setBc_par (s : State) (v : Word) : (s.setBc v).par = s.par := rfl

@[simp] theorem State.setDe_a (s : State) (v : Word) : (s.setDe v).a = s.a := rfl
@[simp] theorem State.setDe_b (s : State) (v : Word) : (s.setDe v).b = s.b := rfl
@[simp] theorem State.setDe_c (s : State) (v : Word) : (s.setDe v).c = s.c := rfl
@[simp] theorem State.setDe_d (s : State) (v : Word) : (s.setDe v).d = hi8 v := rfl
@[simp] theorem State.setDe_e (s : State) (v : Word) : (s.setDe v).e = lo8 v := rfl
@[simp] theorem State.setDe_h (s : State) (v : Word) : (s.setDe v).h = s.h := rfl
@[simp] theorem State.setDe_l (s : State) (v : Word) : (s.setDe v).l = s.l := rfl
@[simp] theorem State.setDe_f (s : State) (v : Word) : (s.setDe v).f = s.f := rfl
@[simp] theorem State.setDe_sp (s : State) (v : Word) : (s.setDe v).sp = s.sp := rfl
@[simp] theorem State.setDe_pc (s : State) (v : Word) : (s.setDe v).pc = s.pc := rfl
@[simp] theorem State.setDe_cart (s : State) (v : Word) : (s.setDe v).cart = s.cart := rfl
@[simp] theorem State.setDe_mem (s : State) (v : Word) : (s.setDe v).mem = s.mem := rfl
@[simp] theorem State.setDe_par (s : State) (v : Word) : (s.setDe v).par = s.par := rfl

@[simp] theorem State.setHl_a (s : State) (v : Word) : (s.setHl v).a = s.a := rfl
@[simp] theorem State.setHl_b (s : State) (v : Word) : (s.setHl v).b = s.b := rfl
@[simp] theorem State.setHl_c (s : State) (v : Word) : (s.setHl v).c = s.c := rfl
@[simp] theorem State.setHl_d (s : State) (v : Word) : (s.setHl v).d = s.d := rfl
@[simp] theorem State.setHl_e (s : State) (v : Word) : (s.setHl v).e = s.e := rfl
@[simp] theorem State.setHl_h (s : State) (v : Word) : (s.setHl v).h = hi8 v := rfl
@[simp] theorem State.setHl_l (s : State) (v : Word) : (s.setHl v).l = lo8 v := rfl
@[simp] theorem State.setHl_f (s : State) (v : Word) : (s.setHl v).f = s.f := rfl
@[simp] theorem State.setHl_sp (s : State) (v : Word) : (s.setHl v).sp = s.sp := rfl
@[simp] theorem State.setHl_pc (s : State) (v : Word) : (s.setHl v).pc = s.pc := rfl
@[simp] theorem State.setHl_cart (s : State) (v : Word) : (s.setHl v).cart = s.cart := rfl
@[simp] theorem State.setHl_mem (s : State) (v : Word) : (s.setHl v).mem = s.mem := rfl
@[simp] theorem State.setHl_par (s : State) (v : Word) : (s.setHl v).par = s.par := rfl

@[simp] theorem State.setAf_a (s : State) (v : Word) : (s.setAf v).a = hi8 v := rfl
@[simp] theorem State.setAf_b (s : State) (v : Word) : (s.setAf v).b = s.b := rfl
@[simp] theorem State.setAf_c (s : State) (v : Word) : (s.setAf v).c = s.c := rfl
@[simp] theorem State.setAf_d (s : State) (v : Word) : (s.setAf v).d = s.d := rfl
@[simp] theorem State.setAf_e (s : State) (v : Word) : (s.setAf v).e = s.e := rfl
@[simp] theorem State.setAf_h (s : State) (v : Word) : (s.setAf v).h = s.h := rfl
@[simp] theorem State.setAf_l (s : State) (v : Word) : (s.setAf v).l = s.l := rfl
@[simp] theorem State.setAf_f (s : State) (v : Word) : (s.setAf v).f = Flags.ofByte (lo8 v) := rfl
@[simp] theorem State.setAf_sp (s : State) (v : Word) : (s.setAf v).sp = s.sp := rfl
@[simp] theorem State.setAf_pc (s : State) (v : Word) : (s.setAf v).pc = s.pc := rfl
@[simp] theorem State.setAf_cart (s : State) (v : Word) : (s.setAf v).cart = s.cart := rfl
@[simp] theorem State.setAf_mem (s : State) (v : Word) : (s.setAf v).mem = s.mem := rfl
@[simp] theorem State.setAf_par (s : State) (v : Word) : (s.setAf v).par = s.par := rfl

@[simp] theorem State.setReg_f (s : State) (r : Reg8) (v : Byte) : (s.setReg r v).f = s.f := by cases r <;> rfl
@[simp] theorem State.setReg_sp (s : State) (r : Reg8) (v : Byte) : (s.setReg r v).sp = s.sp := by cases r <;> rfl
@[simp] theorem State.setReg_pc (s : State) (r : Reg8) (v : Byte) : (s.setReg r v).pc = s.pc := by cases r <;> rfl
@[simp] theorem State.setReg_cart (s : State) (r : Reg8) (v : Byte) : (s.setReg r v).cart = s.cart := by cases r <;> rfl
@[simp] theorem State.setReg_mem (s : State) (r : Reg8) (v : Byte) : (s.setReg r v).mem = s.mem := by cases r <;> rfl
@[simp] theorem State.setReg_par (s : State) (r : Reg8) (v : Byte) : (s.setReg r v).par = s.par := by cases r <;> rfl

@[simp] theorem State.setRp_f (s : State) (rr : Rp) (v : Word) : (s.setRp rr v).f = s.f := by cases rr <;> rfl
@[simp] theorem State.setRp_pc (s : State) (rr : Rp) (v : Word) : (s.setRp rr v).pc = s.pc := by cases rr <;> rfl
@[simp] theorem State.setRp_cart (s : State) (rr : Rp) (v : Word) : (s.setRp rr v).cart = s.cart := by cases rr <;> rfl
@[simp] theorem State.setRp_mem (s : State) (rr : Rp) (v : Word) : (s.setRp rr v).mem = s.mem := by cases rr <;> rfl
@[simp] theorem State.setRp_par (s : State) (rr : Rp) (v : Word) : (s.setRp rr v).par = s.par := by cases rr <;> rfl

@[simp] theorem State.setRp2_sp (s : State) (rr : Rp2) (v : Word) : (s.setRp2 rr v).sp = s.sp := by cases rr <;> rfl
@[simp] theorem State.setRp2_pc (s : State) (rr : Rp2) (v : Word) : (s.setRp2 rr v).pc = s.pc := by cases rr <;> rfl
@[simp] theorem State.setRp2_cart (s : State) (rr : Rp2) (v : Word) : (s.setRp2 rr v).cart = s.cart := by cases rr <;> rfl
@[simp] theorem State.setRp2_mem (s : State) (rr : Rp2) (v : Word) : (s.setRp2 rr v).mem = s.mem := by cases rr <;> rfl
@[simp] theorem State.setRp2_par (s : State) (rr : Rp2) (v : Word) : (s.setRp2 rr v).par = s.par := by cases rr <;> rfl

/-! ## Reading registers after an update -/

theorem State.reg_setReg (s : State) (r q : Reg8) (v : Byte) :
    (s.setReg r v).reg q = if q = r then v else s.reg q := by cases r <;> cases q <;> rfl

@[simp] theorem State.reg_setReg_self (s : State) (r : Reg8) (v : Byte) : (s.setReg r v).reg r = v := by
  simp [State.reg_setReg]

@[simp] theorem State.reg_setF (s : State) (r : Reg8) (f : Flags) : (s.setF f).reg r = s.reg r := by cases r <;> rfl
@[simp] theorem State.reg_setSp (s : State) (r : Reg8) (v : Word) : (s.setSp v).reg r = s.reg r := by cases r <;> rfl
@[simp] theorem State.reg_setPc (s : State) (r : Reg8) (v : Word) : (s.setPc v).reg r = s.reg r := by cases r <;> rfl
@[simp] theorem State.reg_withCart (s : State) (r : Reg8) (k : Cartridge) : ({ s with cart := k } : State).reg r = s.reg r := by
  cases r <;> rfl
@[simp] theorem State.reg_withMem (s : State) (r : Reg8) (m : Memory) : ({ s with mem := m } : State).reg r = s.reg r := by
  cases r <;> rfl

/-! ## Words and their halves -/

theorem mk16_toNat (hi lo : Byte) : (mk16 hi lo).toNat = hi.toNat * 256 + lo.toNat := by
  have := hi.isLt; have := lo.isLt
  simp only [mk16, BitVec.toNat_append]
  rw [← Nat.shiftLeft_add_eq_or_of_lt (by omega), Nat.shiftLeft_eq]
theorem lo8_toNat (w : Word) : (lo8 w).toNat = w.toNat % 256 := by simp [lo8]
theorem hi8_toNat (w : Word) : (hi8 w).toNat = w.toNat / 256 := by
  have := w.isLt
  simp [hi8, Nat.shiftRight_eq_div_pow]; omega

@[simp] theorem hi8_mk16 (hi lo : Byte) : hi8 (mk16 hi lo) = hi := by
  have := hi.isLt; have := lo.isLt
  apply BitVec.eq_of_toNat_eq; rw [hi8_toNat, mk16_toNat]; omega
@[simp] theorem lo8_mk16 (hi lo : Byte) : lo8 (mk16 hi lo) = lo := by
  have := hi.isLt; have := lo.isLt
  apply BitVec.eq_of_toNat_eq; rw [lo8_toNat, mk16_toNat]; omega
@[simp] theorem mk16_hi8_lo8 (w : Word) : mk16 (hi8 w) (lo8 w) = w := by
  apply BitVec.eq_of_toNat_eq; rw [mk16_toNat, hi8_toNat, lo8_toNat]; omega

@[simp] theorem State.bc_setBc (s : State) (v : Word) : (s.setBc v).bc = v := by simp [State.bc]
@[simp] theorem State.de_setDe (s : State) (v : Word) : (s.setDe v).de = v := by simp [State.de]
@[simp] theorem State.hl_setHl (s : State) (v : Word) : (s.setHl v).hl = v := by simp [State.hl]
@[simp] theorem State.rp_setRp (s : State) (rr : Rp) (v : Word) : (s.setRp rr v).rp rr = v := by
  cases rr <;> simp [State.rp, State.setRp]

/-- The byte view of the flags keeps its four bits and no other. -/
@[simp] theorem Flags.ofByte_toByte (f : Flags) : Flags.ofByte f.toByte = f := by
  rcases f with ⟨_ | _, _ | _, _ | _, _ | _⟩ <;> rfl

end Sys2Proof.Machine
end

