-- ==== Sys2Proof/Laws/Bus.lean ====
section
/-! SUPPORT. What a load and a store on the bus can do, each said once: a load depends on memory, the cartridge and the
parameters alone; a store is a region byte or a bank select, and nothing else of the state changes. -/

namespace Sys2Proof.Machine

/-! ## Loads -/

theorem route_congr {s t : State} (hc : t.cart.window = s.cart.window) (hp : t.par = s.par) (a : Word) :
    route t a = route s a := by
  simp [route, hc, hp]

/-- A load depends on the bytes, the cartridge and the parameters alone. -/
theorem busLoad_congr {s t : State} (hm : t.mem = s.mem) (hc : t.cart = s.cart) (hp : t.par = s.par) (a : Word) :
    busLoad t a = busLoad s a := by
  simp [busLoad, route_congr (congrArg _ hc) hp, hc, hm]

@[simp] theorem busLoad_setReg (s : State) (r : Reg8) (v : Byte) (a : Word) : busLoad (s.setReg r v) a = busLoad s a :=
  busLoad_congr (by simp) (by simp) (by simp) a
@[simp] theorem busLoad_setF (s : State) (f : Flags) (a : Word) : busLoad (s.setF f) a = busLoad s a := rfl
@[simp] theorem busLoad_setSp (s : State) (v a : Word) : busLoad (s.setSp v) a = busLoad s a := rfl
@[simp] theorem busLoad_setPc (s : State) (v a : Word) : busLoad (s.setPc v) a = busLoad s a := rfl
@[simp] theorem busLoad_setHl (s : State) (v a : Word) : busLoad (s.setHl v) a = busLoad s a := rfl
@[simp] theorem busLoad_setRp (s : State) (rr : Rp) (v a : Word) : busLoad (s.setRp rr v) a = busLoad s a := by
  cases rr <;> rfl
@[simp] theorem busLoad_setRp2 (s : State) (rr : Rp2) (v a : Word) : busLoad (s.setRp2 rr v) a = busLoad s a := by
  cases rr <;> rfl

/-- Outside the cartridge's window a load is the first claiming region's byte, or nobody answers. -/
theorem busLoad_outside {s : State} {a : Word} (h : inWindow s.cart.window a.toNat = false) :
    busLoad s a =
      if s.par.regions.any (fun r => inWindow r a.toNat) then .ok (memGet s.mem a.toNat)
      else .error (.unmappedAddress a) := by
  unfold busLoad route
  rw [h]
  cases hf : s.par.regions.find? (fun r => inWindow r a.toNat) with
  | none =>
    have : s.par.regions.any (fun r => inWindow r a.toNat) = false := by
      simpa using List.find?_eq_none.mp hf
    simp [this]
  | some r =>
    have hr := List.find?_some hf
    have : s.par.regions.any (fun r => inWindow r a.toNat) = true :=
      List.any_eq_true.mpr ⟨r, List.mem_of_find?_eq_some hf, hr⟩
    simp [this, regionLoad, hr, memGet]

/-- Inside the window of the cartridge the cartridge answers. -/
theorem busLoad_inside {s : State} {a : Word} (h : inWindow s.cart.window a.toNat = true) :
    busLoad s a = cartLoad s.cart a := by
  simp [busLoad, route, h]

/-! ## Stores -/

/-- A store that the cartridge accepts is a bank select of a Type1 cartridge. -/
theorem cartStore_ok {policy : BankOorPolicy} {k k' : Cartridge} {a : Word} {v : Byte}
    (h : cartStore policy k a v = .ok k') :
    ∃ img sel sel', k = .type1 img sel ∧ k' = .type1 img sel' ∧ 0x2000 ≤ a.toNat ∧ a.toNat ≤ 0x3FFF ∧
      selectBank policy img.nsw sel (bankIndex v) a = .ok sel' := by
  cases k with
  | type0 img =>
    by_cases hw : inWindow (type0Region img) a.toNat = true
    · simp [cartStore, regionStore, hw] at h
      simp [type0Region] at h
    · simp [cartStore, regionStore, hw] at h
  | type1 img sel =>
    simp only [cartStore] at h
    split at h
    · rename_i hr
      cases hs : selectBank policy img.nsw sel (bankIndex v) a with
      | error e => simp [hs] at h
      | ok n => simp [hs] at h; exact ⟨img, sel, n, rfl, h.symm, hr.1, hr.2, hs⟩
    · split at h <;> simp at h

/-- Everything an accepted store can be: one byte of a region, or a bank select. -/
theorem busStore_cases {s t : State} {a : Word} {v : Byte} (h : busStore s a v = .ok t) :
    (inWindow s.cart.window a.toNat = false ∧
      (∃ r ∈ s.par.regions, inWindow r a.toNat = true ∧ r.perm = .readWrite ∧
        s.par.regions.find? (fun r => inWindow r a.toNat) = some r) ∧
      t = { s with mem := cellsPut unlistedByte s.mem a.toNat v }) ∨
    (∃ img sel sel', s.cart = .type1 img sel ∧ 0x2000 ≤ a.toNat ∧ a.toNat ≤ 0x3FFF ∧
      selectBank s.par.bankOor img.nsw sel (bankIndex v) a = .ok sel' ∧ t = { s with cart := .type1 img sel' }) := by
  unfold busStore route at h
  cases hw : inWindow s.cart.window a.toNat with
  | true =>
    right
    simp only [hw, if_true] at h
    cases hk : cartStore s.par.bankOor s.cart a v with
    | error e => simp [hk] at h
    | ok k =>
      simp [hk] at h
      obtain ⟨img, sel, sel', h1, h2, h3, h4, h5⟩ := cartStore_ok hk
      exact ⟨img, sel, sel', h1, h3, h4, h5, by rw [← h, h2]⟩
  | false =>
    left
    simp only [hw, Bool.false_eq_true, if_false] at h
    cases hf : s.par.regions.find? (fun r => inWindow r a.toNat) with
    | none => simp [hf] at h
    | some r =>
      have hr := List.find?_some hf
      simp only [hf, regionStore, hr, if_true] at h
      cases hp : r.perm with
      | readOnly => simp [hp] at h
      | readWrite =>
        simp [hp] at h
        exact ⟨rfl, ⟨r, List.mem_of_find?_eq_some hf, hr, hp, rfl⟩, h.symm⟩

/-- A store writes no register, no flag, not `sp`, not `pc`, no parameter, no image byte. -/
theorem busStore_frame {s t : State} {a : Word} {v : Byte} (h : busStore s a v = .ok t) :
    (∀ r, t.reg r = s.reg r) ∧ t.f = s.f ∧ t.sp = s.sp ∧ t.pc = s.pc ∧ t.par = s.par ∧
      t.cart.image = s.cart.image ∧ t.cart.window = s.cart.window := by
  rcases busStore_cases h with ⟨_, _, rfl⟩ | ⟨img, sel, sel', hc, _, _, _, rfl⟩
  · simp
  · simp [hc, Cartridge.image, Cartridge.window]

/-- The pairs too. -/
theorem busStore_pairs {s t : State} {a : Word} {v : Byte} (h : busStore s a v = .ok t) :
    t.bc = s.bc ∧ t.de = s.de ∧ t.hl = s.hl ∧ t.a = s.a := by
  rcases busStore_cases h with ⟨_, _, rfl⟩ | ⟨_, _, _, _, _, _, _, rfl⟩ <;> exact ⟨rfl, rfl, rfl, rfl⟩

/-- Whether and how a store is accepted does not depend on what an accepted store before it changed. -/
theorem busStore_after {s t u : State} {a b : Word} {v w : Byte} (h : busStore s a v = .ok t)
    (hb : busStore s b w = .ok u) : ∃ t2, busStore t b w = .ok t2 := by
  rcases busStore_cases h with ⟨_, _, rfl⟩ | ⟨img, sel, sel', hc, _, _, _, rfl⟩
  · rcases busStore_cases hb with ⟨hw, ⟨r, hr, hi, hp, hf⟩, rfl⟩ | ⟨img, sel, sel', hc, h1, h2, hs, rfl⟩
    · exact ⟨_, by simp [busStore, route, hw, hf, regionStore, hi, hp]; rfl⟩
    · have hw : inWindow s.cart.window b.toNat = true := by simp [hc, Cartridge.window, inWindow]; omega
      rw [hc] at hw
      exact ⟨_, by simp [busStore, route, hw, hc, cartStore, h1, h2, hs]; rfl⟩
  · rcases busStore_cases hb with ⟨hw, ⟨r, hr, hi, hp, hf⟩, rfl⟩ | ⟨img2, sel2, sel3, hc2, h1, h2, hs, rfl⟩
    · rw [hc] at hw
      simp only [Cartridge.window] at hw
      exact ⟨_, by simp [busStore, route, Cartridge.window, hw, hf, regionStore, hi, hp]; rfl⟩
    · rw [hc] at hc2; cases hc2
      have hs2 : ∃ n, selectBank s.par.bankOor img.nsw sel' (bankIndex w) b = .ok n := by
        unfold selectBank at hs ⊢
        split
        · exact ⟨_, rfl⟩
        · rename_i hn; rw [if_neg hn] at hs
          cases hp : s.par.bankOor <;> simp [hp] at hs ⊢
      obtain ⟨n, hn⟩ := hs2
      have hw : inWindow ⟨0, 0x8000, .readOnly⟩ b.toNat = true := by simp [inWindow]; omega
      exact ⟨_, by simp [busStore, route, hw, Cartridge.window, cartStore, h1, h2, hn]; rfl⟩

/-- `MemWrite(addr, 2, v)` succeeds only as two byte stores in a row. -/
theorem store16_ok {s t : State} {a w : Word} (h : store16 s a w = .ok t) :
    ∃ s1, busStore s a (lo8 w) = .ok s1 ∧ busStore s1 (a + 1#16) (hi8 w) = .ok t := by
  unfold store16 at h
  split at h
  · simp at h
  · split at h
    · simp at h
    · exact ⟨_, ‹_›, h⟩

/-- `MemWrite(addr, 2, v)` fails only with the error of a byte store on the state before. -/
theorem store16_error {s : State} {a w : Word} {e : Fault} (h : store16 s a w = .error e) :
    busStore s a (lo8 w) = .error e ∨ busStore s (a + 1#16) (hi8 w) = .error e := by
  unfold store16 at h
  cases h1 : busStore s a (lo8 w) with
  | error e1 => rw [h1] at h; exact .inl h
  | ok s1 =>
    rw [h1] at h
    cases h2 : busStore s (a + 1#16) (hi8 w) with
    | error e2 => rw [h2] at h; exact .inr h
    | ok u =>
      obtain ⟨t2, h3⟩ := busStore_after h1 h2
      rw [h2] at h; simp only [h3] at h; cases h

theorem store16_frame {s t : State} {a w : Word} (h : store16 s a w = .ok t) :
    (∀ r, t.reg r = s.reg r) ∧ t.f = s.f ∧ t.sp = s.sp ∧ t.pc = s.pc ∧ t.par = s.par ∧
      t.cart.image = s.cart.image ∧ t.cart.window = s.cart.window := by
  obtain ⟨s1, h1, h2⟩ := store16_ok h
  have a1 := busStore_frame h1
  have a2 := busStore_frame h2
  simp_all

/-! ## Loads after a store -/

/-- After a store to a region its byte is read back, and every other address reads as before. -/
theorem busLoad_afterRegionStore {s : State} {a : Word} {v : Byte} (hw : inWindow s.cart.window a.toNat = false)
    (hr : s.par.regions.any (fun r => inWindow r a.toNat) = true) (k : Word) :
    busLoad { s with mem := cellsPut unlistedByte s.mem a.toNat v } k = if k = a then .ok v else busLoad s k := by
  cases hk : inWindow s.cart.window k.toNat with
  | true =>
    rw [busLoad_inside (by exact hk), busLoad_inside hk]
    split
    · rename_i h; subst h; simp [hw] at hk
    · rfl
  | false =>
    rw [busLoad_outside (by exact hk), busLoad_outside hk]
    simp only [memGet, cellsGet_cellsPut]
    by_cases h : k = a
    · subst h; simp [hr]
    · have : k.toNat ≠ a.toNat := fun e => h (BitVec.eq_of_toNat_eq e)
      simp [h, this]

/-- After a bank select every address outside the switchable window reads as before. -/
theorem busLoad_afterSelect {s : State} {img : Image} {sel sel' : Nat} (hc : s.cart = .type1 img sel) {k : Word}
    (hk : ¬(0x4000 ≤ k.toNat ∧ k.toNat ≤ 0x7FFF)) :
    busLoad { s with cart := .type1 img sel' } k = busLoad s k := by
  cases hw : inWindow s.cart.window k.toNat with
  | true =>
    rw [busLoad_inside (by simpa [hc, Cartridge.window] using hw), busLoad_inside hw, hc]
    simp only [cartLoad, type1Offset]
    split
    · have : k.toNat < 0x4000 := by omega
      simp [this]
    · rfl
  | false =>
    rw [busLoad_outside (by simpa [hc, Cartridge.window] using hw), busLoad_outside hw]

/-! ## The canonical form -/

/-- A store keeps the memory in canonical form. -/
theorem busStore_wf {s t : State} {a : Word} {v : Byte} (h : busStore s a v = .ok t) (hm : s.mem.wf = true) :
    t.mem.wf = true := by
  rcases busStore_cases h with ⟨_, _, rfl⟩ | ⟨_, _, _, _, _, _, _, rfl⟩
  · exact cellsWf_cellsPut _ _ hm
  · exact hm

theorem store16_wf {s t : State} {a w : Word} (h : store16 s a w = .ok t) (hm : s.mem.wf = true) :
    t.mem.wf = true := by
  obtain ⟨s1, h1, h2⟩ := store16_ok h
  exact busStore_wf h2 (busStore_wf h1 hm)

theorem reset_mem_wf : State.reset.mem.wf = true := rfl

end Sys2Proof.Machine
end

