-- ==== Sys2Proof/Laws/Construct.lean ====
section
/-! SUPPORT. What construction can give: the cartridge factory's two cartridges, the refusals it makes, and the bytes of
the regions. -/

namespace Sys2Proof.Machine

/-- Everything the factory can build. -/
theorem cartridgeFactory_ok {b : BuildParams} {img : Image} {k : Cartridge} (h : cartridgeFactory b img = .ok k) :
    0x14A ≤ img.len ∧
    ((b.typeMap (img.byte 0x147) = some .type0 ∧ img.len ≤ 0x8000 ∧ k = .type0 img) ∨
     (b.typeMap (img.byte 0x147) = some .type1 ∧
      ∃ n, b.romBanks (img.byte 0x148) = some n ∧ img.len = n * bankSize ∧ k = .type1 img 0)) := by
  unfold cartridgeFactory at h
  split at h
  · simp at h
  · refine ⟨by omega, ?_⟩
    split at h
    · simp at h
    · split at h <;> simp_all
    · split at h
      · simp at h
      · split at h <;> simp_all

/-- Everything construction can give. -/
theorem construct_next {b : BuildParams} {img : Image} {s : State} (h : construct b img = .next s) :
    ∃ k, cartridgeFactory b img = .ok k ∧ windowsWf (k.window :: b.par.regions) = true ∧ k.hasBank = true ∧
      s = State.initial b.regReset k (initialMemory b.par.regions b.ramInit) b.par := by
  unfold construct at h
  cases hc : cartridgeFactory b img with
  | error e => rw [hc] at h; cases h
  | ok k =>
    rw [hc] at h
    dsimp only at h
    split at h
    · rename_i hw
      rw [Bool.and_eq_true] at hw
      exact ⟨k, rfl, hw.1, hw.2, by simpa using h.symm⟩
    · cases h

/-- A region's byte at reset is `RAM_INIT`'s. -/
theorem memGet_initialMemory (regions : List Region) (ram : Cells) (a : Nat)
    (h : (regions.any fun r => inWindow r a) = true) :
    memGet (initialMemory regions ram) a = cellsGet unlistedByte ram a := by
  induction ram with
  | nil => rfl
  | cons c rest ih =>
    obtain ⟨k, v⟩ := c
    simp only [initialMemory, cellsGet]
    split
    · simp only [memGet, cellsGet_cellsPut]
      split
      · rfl
      · exact ih
    · rename_i hk
      split
      · rename_i he; subst he; exact absurd h hk
      · exact ih

/-- The memory of a machine just constructed is canonical and inside the regions. -/
theorem initialMemory_wf (regions : List Region) (ram : Cells) :
    (initialMemory regions ram).wf = true ∧
    (initialMemory regions ram).all (fun c => regions.any fun r => inWindow r c.1) = true := by
  induction ram with
  | nil => exact ⟨rfl, rfl⟩
  | cons c rest ih =>
    obtain ⟨k, v⟩ := c
    simp only [initialMemory]
    split
    · rename_i hk
      refine ⟨cellsWf_cellsPut _ _ ih.1, List.all_eq_true.mpr fun c hc => ?_⟩
      rcases mem_cellsPut hc with rfl | hc
      · exact hk
      · exact List.all_eq_true.mp ih.2 c hc
    · exact ih

end Sys2Proof.Machine
end

