-- ==== Sys2Proof/Laws/Operands.lean ====
section
/-! SUPPORT. For each shared operation, everything it can do: when it answers a next state and which, and with what
error it ends. No meaning refuses. -/

namespace Sys2Proof.Machine

/-! ## Ending a step -/

@[simp] theorem finish_eq_next {n : Nat} {s t : State} : finish n s = .next t ↔ t = s.setPc (s.npc n) := by
  simp [finish, eq_comm]
@[simp] theorem finish_ne_fault {n : Nat} {s : State} {e : Fault} : finish n s ≠ .fault e := by simp [finish]
@[simp] theorem finish_ne_refused {n : Nat} {s : State} {r : Refusal} : finish n s ≠ .refused r := by simp [finish]
@[simp] theorem jumpTo_eq_next {w : Word} {s t : State} : jumpTo w s = .next t ↔ t = s.setPc w := by
  simp [jumpTo, eq_comm]
@[simp] theorem jumpTo_ne_fault {w : Word} {s : State} {e : Fault} : jumpTo w s ≠ .fault e := by simp [jumpTo]
@[simp] theorem jumpTo_ne_refused {w : Word} {s : State} {r : Refusal} : jumpTo w s ≠ .refused r := by simp [jumpTo]
@[simp] theorem raise_eq_fault {e e' : Fault} : raise e = .fault e' ↔ e = e' := by simp [raise]
@[simp] theorem raise_ne_next {e : Fault} {t : State} : raise e ≠ .next t := by simp [raise]
@[simp] theorem raise_ne_refused {e : Fault} {r : Refusal} : raise e ≠ .refused r := by simp [raise]

@[simp] theorem andThen_ok {α : Type} (v : α) (k : α → Result) : andThen (.ok v) k = k v := rfl
@[simp] theorem andThen_error {α : Type} (e : Fault) (k : α → Result) : andThen (.error e : Except Fault α) k = .fault e := rfl

theorem andThen_eq_next {α : Type} {x : Except Fault α} {k : α → Result} {t : State} :
    andThen x k = .next t ↔ ∃ v, x = .ok v ∧ k v = .next t := by
  cases x <;> simp

theorem andThen_eq_fault {α : Type} {x : Except Fault α} {k : α → Result} {e : Fault} :
    andThen x k = .fault e ↔ x = .error e ∨ ∃ v, x = .ok v ∧ k v = .fault e := by
  cases x <;> simp

theorem andThen_ne_refused {α : Type} {x : Except Fault α} {k : α → Result} {r : Refusal}
    (h : ∀ v, k v ≠ .refused r) : andThen x k ≠ .refused r := by
  cases x <;> simp [h]

/-! ## Operands -/

/-- A read of an operand fails only as a load at HL. -/
theorem rd8_error {s : State} {t : Target} {e : Fault} (h : rd8 s t = .error e) : busLoad s s.hl = .error e := by
  cases t <;> simp_all [rd8]

/-- A write of an operand: the register, or a store at HL. -/
theorem wr8_ok {s u : State} {t : Target} {v : Byte} (h : wr8 s t v = .ok u) :
    (∃ r, t = .reg r ∧ u = s.setReg r v) ∨
    ((t = .hlInd ∨ t = .hlInc ∨ t = .hlDec) ∧ busStore s s.hl v = .ok u) := by
  cases t <;> simp_all [wr8]

/-- A write of an operand that can be written fails only as a store at HL. -/
theorem wr8_error {s : State} {t : Target} {v : Byte} {e : Fault} (ht : ∀ d, t ≠ .imm d) (h : wr8 s t v = .error e) :
    (t = .hlInd ∨ t = .hlInc ∨ t = .hlDec) ∧ busStore s s.hl v = .error e := by
  cases t <;> simp_all [wr8]

theorem selTarget_ne_imm (t : Sel8) (d : Byte) : selTarget t ≠ .imm d := by cases t <;> simp [selTarget]

theorem selTarget_eq_reg {t : Sel8} {r : Reg8} : selTarget t = .reg r ↔ t = .reg r := by cases t <;> simp [selTarget]

/-! ## The operations of the families -/

/-- Everything `modify8` can do: read, write, flags, next instruction; else the error of the read or of the write. -/
theorem modify8_eq_next {n : Nat} {t : Target} {g : Byte → Byte × Flags} {s u : State} :
    modify8 n t g s = .next u ↔ ∃ v s1, rd8 s t = .ok v ∧ wr8 s t (g v).1 = .ok s1 ∧
      u = (s1.setF (g v).2).setPc (s1.npc n) := by
  simp [modify8, andThen_eq_next, State.npc]

theorem modify8_eq_fault {n : Nat} {t : Target} {g : Byte → Byte × Flags} {s : State} {e : Fault} :
    modify8 n t g s = .fault e ↔ rd8 s t = .error e ∨ ∃ v, rd8 s t = .ok v ∧ wr8 s t (g v).1 = .error e := by
  simp [modify8, andThen_eq_fault]

theorem accumulate_eq_next {n : Nat} {t : Target} {g : Byte → Byte → Byte × Flags} {s u : State} :
    accumulate n t g s = .next u ↔ ∃ v, rd8 s t = .ok v ∧
      u = ((s.setReg .A (g s.a v).1).setF (g s.a v).2).setPc (s.npc n) := by
  simp [accumulate, andThen_eq_next, State.npc]

theorem accumulate_eq_fault {n : Nat} {t : Target} {g : Byte → Byte → Byte × Flags} {s : State} {e : Fault} :
    accumulate n t g s = .fault e ↔ rd8 s t = .error e := by
  simp [accumulate, andThen_eq_fault]

theorem compareA_eq_next {n : Nat} {t : Target} {g : Byte → Byte → Byte × Flags} {s u : State} :
    compareA n t g s = .next u ↔ ∃ v, rd8 s t = .ok v ∧ u = (s.setF (g s.a v).2).setPc (s.npc n) := by
  simp [compareA, andThen_eq_next, State.npc]

theorem compareA_eq_fault {n : Nat} {t : Target} {g : Byte → Byte → Byte × Flags} {s : State} {e : Fault} :
    compareA n t g s = .fault e ↔ rd8 s t = .error e := by
  simp [compareA, andThen_eq_fault]

theorem move8_eq_next {n : Nat} {dst src : Target} {s u : State} :
    move8 n dst src s = .next u ↔ ∃ v s1, rd8 s src = .ok v ∧ wr8 s dst v = .ok s1 ∧
      u = (postMod dst (postMod src s1)).setPc ((postMod dst (postMod src s1)).npc n) := by
  simp [move8, andThen_eq_next]

theorem move8_eq_fault {n : Nat} {dst src : Target} {s : State} {e : Fault} :
    move8 n dst src s = .fault e ↔ rd8 s src = .error e ∨ ∃ v, rd8 s src = .ok v ∧ wr8 s dst v = .error e := by
  simp [move8, andThen_eq_fault]

theorem loadA_eq_next {n : Nat} {a : Word} {s u : State} :
    loadA n a s = .next u ↔ ∃ v, busLoad s a = .ok v ∧ u = (s.setReg .A v).setPc (s.npc n) := by
  simp [loadA, andThen_eq_next, State.npc]

theorem loadA_eq_fault {n : Nat} {a : Word} {s : State} {e : Fault} :
    loadA n a s = .fault e ↔ busLoad s a = .error e := by
  simp [loadA, andThen_eq_fault]

theorem storeA_eq_next {n : Nat} {a : Word} {s u : State} :
    storeA n a s = .next u ↔ ∃ t, busStore s a s.a = .ok t ∧ u = t.setPc (t.npc n) := by
  simp [storeA, andThen_eq_next]

theorem storeA_eq_fault {n : Nat} {a : Word} {s : State} {e : Fault} :
    storeA n a s = .fault e ↔ busStore s a s.a = .error e := by
  simp [storeA, andThen_eq_fault]

/-! ## The stack -/

theorem push16_eq_ok {s t : State} {v : Word} :
    push16 s v = .ok t ↔ ∃ s1, store16 s (s.sp - 2#16) v = .ok s1 ∧ t = s1.setSp (s.sp - 2#16) := by
  unfold push16
  cases store16 s (s.sp - 2#16) v <;> simp [eq_comm]

theorem push16_eq_error {s : State} {v : Word} {e : Fault} :
    push16 s v = .error e ↔ store16 s (s.sp - 2#16) v = .error e := by
  unfold push16
  cases store16 s (s.sp - 2#16) v <;> simp

theorem pop16_eq_ok {s : State} {p : Word × State} :
    pop16 s = .ok p ↔ ∃ v, load16 s s.sp = .ok v ∧ p = (v, s.setSp (s.sp + 2#16)) := by
  unfold pop16
  cases load16 s s.sp <;> simp [eq_comm]

theorem pop16_eq_error {s : State} {e : Fault} : pop16 s = .error e ↔ load16 s s.sp = .error e := by
  unfold pop16
  cases load16 s s.sp <;> simp

theorem callTo_eq_next {w : Word} {s t : State} :
    callTo w s = .next t ↔ ∃ s1, store16 s (s.sp - 2#16) (s.npc 3) = .ok s1 ∧ t = (s1.setSp (s.sp - 2#16)).setPc w := by
  simp only [callTo, andThen_eq_next, push16_eq_ok, jumpTo_eq_next]
  constructor
  · rintro ⟨v, ⟨s1, h1, rfl⟩, rfl⟩; exact ⟨s1, h1, rfl⟩
  · rintro ⟨s1, h1, rfl⟩; exact ⟨_, ⟨s1, h1, rfl⟩, rfl⟩

theorem callTo_eq_fault {w : Word} {s : State} {e : Fault} :
    callTo w s = .fault e ↔ store16 s (s.sp - 2#16) (s.npc 3) = .error e := by
  simp [callTo, andThen_eq_fault, push16_eq_error]

theorem returnTo_eq_next {s t : State} :
    returnTo s = .next t ↔ ∃ w, load16 s s.sp = .ok w ∧ t = (s.setSp (s.sp + 2#16)).setPc w := by
  simp [returnTo, andThen_eq_next, pop16_eq_ok]

theorem returnTo_eq_fault {s : State} {e : Fault} : returnTo s = .fault e ↔ load16 s s.sp = .error e := by
  simp [returnTo, andThen_eq_fault, pop16_eq_error]

/-- HALT and STOP: the state itself, or UnknownOpcode of their byte. -/
theorem haltOrMiss_cases (op : Byte) (s : State) :
    haltOrMiss op s = .next s ∨ haltOrMiss op s = .fault (.unknownOpcode op) := by
  unfold haltOrMiss
  cases s.par.haltStop <;> simp [raise]

end Sys2Proof.Machine
end

