-- ==== Sys2Proof/Laws/Exec.lean ====
section
/-! SUPPORT. What any instruction can do to memory and the cartridge, said once for all 104: nothing, one byte store, or
one 16-bit store. And how any instruction can fail. -/

namespace Sys2Proof.Machine

/-- Memory and the cartridge after an instruction: as before, or as one byte store or one 16-bit store leaves them; the
parameters as before. -/
def StoreEffect (s t : State) : Prop :=
  t.par = s.par ∧
  ((t.mem = s.mem ∧ t.cart = s.cart) ∨
   (∃ a v u, busStore s a v = .ok u ∧ t.mem = u.mem ∧ t.cart = u.cart) ∨
   (∃ a w u, store16 s a w = .ok u ∧ t.mem = u.mem ∧ t.cart = u.cart))

/-- The errors an instruction can end with: of a load, of a byte store, or UnknownOpcode. -/
def AccessError (s : State) (e : Fault) : Prop :=
  (∃ a, busLoad s a = .error e) ∨ (∃ a v, busStore s a v = .error e) ∨ (∃ b0, e = .unknownOpcode b0)

/-! ## Shared operations -/

theorem StoreEffect.same {s t : State} (hp : t.par = s.par) (hm : t.mem = s.mem) (hc : t.cart = s.cart) :
    StoreEffect s t := ⟨hp, .inl ⟨hm, hc⟩⟩

theorem StoreEffect.store {s u t : State} {a : Word} {v : Byte} (h : busStore s a v = .ok u) (hp : t.par = u.par)
    (hm : t.mem = u.mem) (hc : t.cart = u.cart) : StoreEffect s t :=
  ⟨by rw [hp, (busStore_frame h).2.2.2.2.1], .inr (.inl ⟨a, v, u, h, hm, hc⟩)⟩

theorem StoreEffect.store16 {s u t : State} {a w : Word} (h : Machine.store16 s a w = .ok u) (hp : t.par = u.par)
    (hm : t.mem = u.mem) (hc : t.cart = u.cart) : StoreEffect s t :=
  ⟨by rw [hp, (store16_frame h).2.2.2.2.1], .inr (.inr ⟨a, w, u, h, hm, hc⟩)⟩

@[simp] theorem postMod_par (t : Target) (s : State) : (postMod t s).par = s.par := by cases t <;> rfl
@[simp] theorem postMod_mem (t : Target) (s : State) : (postMod t s).mem = s.mem := by cases t <;> rfl
@[simp] theorem postMod_cart (t : Target) (s : State) : (postMod t s).cart = s.cart := by cases t <;> rfl
@[simp] theorem postMod_f (t : Target) (s : State) : (postMod t s).f = s.f := by cases t <;> rfl
@[simp] theorem postMod_sp (t : Target) (s : State) : (postMod t s).sp = s.sp := by cases t <;> rfl
@[simp] theorem postMod_pc (t : Target) (s : State) : (postMod t s).pc = s.pc := by cases t <;> rfl

theorem wr8_effect {s u : State} {t : Target} {v : Byte} (h : wr8 s t v = .ok u) :
    StoreEffect s u ∧ u.f = s.f ∧ u.sp = s.sp ∧ u.pc = s.pc := by
  rcases wr8_ok h with ⟨r, rfl, rfl⟩ | ⟨_, h⟩
  · exact ⟨.same (by simp) (by simp) (by simp), by simp, by simp, by simp⟩
  · have := busStore_frame h
    exact ⟨.store h rfl rfl rfl, this.2.1, this.2.2.1, this.2.2.2.1⟩

theorem StoreEffect.trans_same {s u t : State} (h : StoreEffect s u) (hp : t.par = u.par) (hm : t.mem = u.mem)
    (hc : t.cart = u.cart) : StoreEffect s t := by
  unfold StoreEffect at *
  rw [hp, hm, hc]
  exact h

theorem move8_effect {n : Nat} {d r : Target} {s t : State} (h : move8 n d r s = .next t) : StoreEffect s t := by
  obtain ⟨v, s1, _, h2, rfl⟩ := move8_eq_next.mp h
  exact (wr8_effect h2).1.trans_same (by simp) (by simp) (by simp)

theorem modify8_effect {n : Nat} {d : Target} {g : Byte → Byte × Flags} {s t : State} (h : modify8 n d g s = .next t) :
    StoreEffect s t := by
  obtain ⟨v, s1, _, h2, rfl⟩ := modify8_eq_next.mp h
  exact (wr8_effect h2).1.trans_same (by simp) (by simp) (by simp)

theorem accumulate_effect {n : Nat} {d : Target} {g : Byte → Byte → Byte × Flags} {s t : State}
    (h : accumulate n d g s = .next t) : StoreEffect s t := by
  obtain ⟨v, _, rfl⟩ := accumulate_eq_next.mp h
  exact .same (by simp) (by simp) (by simp)

theorem compareA_effect {n : Nat} {d : Target} {g : Byte → Byte → Byte × Flags} {s t : State}
    (h : compareA n d g s = .next t) : StoreEffect s t := by
  obtain ⟨v, _, rfl⟩ := compareA_eq_next.mp h
  exact .same (by simp) (by simp) (by simp)

theorem loadA_effect {n : Nat} {a : Word} {s t : State} (h : loadA n a s = .next t) : StoreEffect s t := by
  obtain ⟨v, _, rfl⟩ := loadA_eq_next.mp h
  exact .same (by simp) (by simp) (by simp)

theorem storeA_effect {n : Nat} {a : Word} {s t : State} (h : storeA n a s = .next t) : StoreEffect s t := by
  obtain ⟨u, h1, rfl⟩ := storeA_eq_next.mp h
  exact .store h1 (by simp) (by simp) (by simp)

theorem push16_effect {v : Word} {s t : State} (h : push16 s v = .ok t) : StoreEffect s t := by
  obtain ⟨u, h1, rfl⟩ := push16_eq_ok.mp h
  exact .store16 h1 (by simp) (by simp) (by simp)

theorem callTo_effect {w : Word} {s t : State} (h : callTo w s = .next t) : StoreEffect s t := by
  obtain ⟨u, h1, rfl⟩ := callTo_eq_next.mp h
  exact .store16 h1 (by simp) (by simp) (by simp)

theorem returnTo_effect {s t : State} (h : returnTo s = .next t) : StoreEffect s t := by
  obtain ⟨w, _, rfl⟩ := returnTo_eq_next.mp h
  exact .same (by simp) (by simp) (by simp)

theorem finish_effect {n : Nat} {s u t : State} (h : finish n u = .next t) (hp : u.par = s.par) (hm : u.mem = s.mem)
    (hc : u.cart = s.cart) : StoreEffect s t := by
  rw [finish_eq_next] at h; subst h
  exact .same (by simp [hp]) (by simp [hm]) (by simp [hc])

theorem haltOrMiss_effect {op : Byte} {s t : State} (h : haltOrMiss op s = .next t) : StoreEffect s t := by
  rcases haltOrMiss_cases op s with h1 | h1 <;> rw [h1] at h <;> cases h
  exact .same rfl rfl rfl

theorem execBitBT_effect {b : Fin 8} {d : Sel8} {s t : State} (h : execBitBT b d s = .next t) : StoreEffect s t := by
  obtain ⟨v, _, h⟩ := andThen_eq_next.mp h
  exact finish_effect h (by simp) (by simp) (by simp)

theorem runExtended_effect {b1 : Byte} {s t : State} (h : runExtended b1 s = .next t) : StoreEffect s t := by
  unfold runExtended at h
  dsimp only at h
  split at h <;> first | exact modify8_effect h | exact execBitBT_effect h

/-! ## Every instruction -/

/-- What an instruction can do to memory, the cartridge and the parameters. -/
theorem exec_effect {i : Instr} {s t : State} (h : exec i s = .next t) : StoreEffect s t := by
  cases i
  case ldA16SP a16 =>
    obtain ⟨u, h1, h2⟩ := andThen_eq_next.mp h
    rw [finish_eq_next] at h2; subst h2
    exact .store16 h1 (by simp) (by simp) (by simp)
  case pushRr rr =>
    obtain ⟨u, h1, h2⟩ := andThen_eq_next.mp h
    rw [finish_eq_next] at h2; subst h2
    exact (push16_effect h1).trans_same (by simp) (by simp) (by simp)
  case popRr rr =>
    obtain ⟨p, h1, h2⟩ := andThen_eq_next.mp h
    obtain ⟨v, _, rfl⟩ := pop16_eq_ok.mp h1
    exact finish_effect h2 (by simp) (by simp) (by simp)
  case rstN y =>
    obtain ⟨u, h1, h2⟩ := andThen_eq_next.mp h
    rw [jumpTo_eq_next] at h2; subst h2
    exact (push16_effect h1).trans_same (by simp) (by simp) (by simp)
  case prefixCB =>
    obtain ⟨b1, _, h⟩ := andThen_eq_next.mp h
    exact runExtended_effect h
  case bitBT b d => exact execBitBT_effect h
  case callCcA16 cc a16 =>
    simp only [exec, execCallCcA16] at h
    split at h
    · exact callTo_effect h
    · exact finish_effect h rfl rfl rfl
  case retCc cc =>
    simp only [exec, execRetCc] at h
    split at h
    · exact returnTo_effect h
    · exact finish_effect h rfl rfl rfl
  case jrCcE8 cc e8 =>
    simp only [exec, execJrCcE8] at h
    split at h
    · rw [jumpTo_eq_next] at h; subst h; exact .same (by simp) (by simp) (by simp)
    · exact finish_effect h rfl rfl rfl
  case jpCcA16 cc a16 =>
    simp only [exec, execJpCcA16] at h
    split at h
    · rw [jumpTo_eq_next] at h; subst h; exact .same (by simp) (by simp) (by simp)
    · exact finish_effect h rfl rfl rfl
  case jrE8 | jpA16 | jpHL =>
    cases h; exact .same (by simp) (by simp) (by simp)
  case undefD3 | undefDB | undefDD | undefE3 | undefE4 | undefEB | undefEC | undefED | undefF4 | undefFC | undefFD =>
    cases h
  case halt | stop => exact haltOrMiss_effect h
  case callA16 => exact callTo_effect h
  case ret | reti => exact returnTo_effect h
  case ldRR | ldRD8 | ldRHL | ldHLR | ldHLD8 | ldHLIncA | ldHLDecA | ldAHLInc | ldAHLDec =>
    simp only [exec, execLdRR, execLdRD8, execLdRHL, execLdHLR, execLdHLD8,
      execLdHLIncA, execLdHLDecA, execLdAHLInc, execLdAHLDec] at h
    exact move8_effect h
  case ldABC | ldADE | ldAA16 | ldhAA8 | ldAC => exact loadA_effect h
  case ldBCA | ldDEA | ldA16A | ldhA8A | ldCA => exact storeA_effect h
  case incR | incHL | decR | decHL | rlcT | rrcT | rlT | rrT | slaT | sraT | swapT | srlT | resBT | setBT =>
    simp only [exec, execIncR, execIncHL, execDecR, execDecHL, execRlcT, execRrcT, execRlT,
      execRrT, execSlaT, execSraT, execSwapT, execSrlT, execResBT, execSetBT] at h
    exact modify8_effect h
  case cpR | cpHL | cpD8 =>
    simp only [exec, execCpR, execCpHL, execCpD8] at h
    exact compareA_effect h
  case nop | di | ei | ldRrD16 | ldSPHL | ldHLSPE8 | incRr | decRr | addHLRr | addSPE8 | rlca | rla | rrca | rra | cpl
      | ccf | scf | daa =>
    exact finish_effect h (by simp) (by simp) (by simp)
  all_goals
    simp only [exec, execAddAR, execAddAHL, execAddAD8, execAdcAR, execAdcAHL, execAdcAD8, execSubR, execSubHL, execSubD8,
      execSbcAR, execSbcAHL, execSbcAD8, execAndR, execAndHL, execAndD8, execXorR, execXorHL, execXorD8, execOrR, execOrHL, execOrD8] at h
    exact accumulate_effect h

/-- A step does what an instruction does. -/
theorem step_effect {s t : State} (h : step s = .next t) : StoreEffect s t := by
  unfold step at h
  split at h
  · cases h
  · exact exec_effect h

/-! ## How an instruction can fail -/

theorem rd8_accessError {s : State} {d : Target} {e : Fault} (h : rd8 s d = .error e) : AccessError s e :=
  .inl ⟨_, rd8_error h⟩

theorem wr8_accessError {s : State} {d : Target} {v : Byte} {e : Fault} (hd : ∀ k, d ≠ .imm k)
    (h : wr8 s d v = .error e) : AccessError s e :=
  .inr (.inl ⟨_, _, (wr8_error hd h).2⟩)

theorem load16_accessError {s : State} {a : Word} {e : Fault} (h : load16 s a = .error e) : AccessError s e := by
  unfold load16 at h
  split at h
  · rename_i h1; cases h; exact .inl ⟨_, h1⟩
  · split at h
    · rename_i h1; cases h; exact .inl ⟨_, h1⟩
    · cases h

theorem store16_accessError {s : State} {a w : Word} {e : Fault} (h : store16 s a w = .error e) : AccessError s e :=
  .inr (.inl ((store16_error h).elim (fun h => ⟨_, _, h⟩) fun h => ⟨_, _, h⟩))

theorem move8_accessError {n : Nat} {d r : Target} {s : State} {e : Fault} (hd : ∀ k, d ≠ .imm k)
    (h : move8 n d r s = .fault e) : AccessError s e := by
  rcases move8_eq_fault.mp h with h | ⟨_, _, h⟩
  · exact rd8_accessError h
  · exact wr8_accessError hd h

theorem modify8_accessError {n : Nat} {d : Target} {g : Byte → Byte × Flags} {s : State} {e : Fault}
    (hd : ∀ k, d ≠ .imm k) (h : modify8 n d g s = .fault e) : AccessError s e := by
  rcases modify8_eq_fault.mp h with h | ⟨_, _, h⟩
  · exact rd8_accessError h
  · exact wr8_accessError hd h

theorem execBitBT_accessError {b : Fin 8} {d : Sel8} {s : State} {e : Fault} (h : execBitBT b d s = .fault e) :
    AccessError s e := by
  rcases andThen_eq_fault.mp h with h | ⟨_, _, h⟩
  · exact rd8_accessError h
  · exact absurd h finish_ne_fault

theorem haltOrMiss_accessError {op : Byte} {s : State} {e : Fault} (h : haltOrMiss op s = .fault e) :
    AccessError s e := by
  rcases haltOrMiss_cases op s with h1 | h1 <;> rw [h1] at h <;> cases h
  exact .inr (.inr ⟨_, rfl⟩)

theorem runExtended_accessError {b1 : Byte} {s : State} {e : Fault} (h : runExtended b1 s = .fault e) :
    AccessError s e := by
  unfold runExtended at h
  dsimp only at h
  split at h <;> first
    | exact modify8_accessError (selTarget_ne_imm _) h
    | exact execBitBT_accessError h

/-- How any instruction can fail: as a load, as a byte store, or with UnknownOpcode. -/
theorem exec_accessError {i : Instr} {s : State} {e : Fault} (h : exec i s = .fault e) : AccessError s e := by
  cases i
  case ldA16SP a16 =>
    rcases andThen_eq_fault.mp h with h | ⟨_, _, h⟩
    · exact store16_accessError h
    · exact absurd h finish_ne_fault
  case pushRr rr =>
    rcases andThen_eq_fault.mp h with h | ⟨_, _, h⟩
    · exact store16_accessError (push16_eq_error.mp h)
    · exact absurd h finish_ne_fault
  case popRr rr =>
    rcases andThen_eq_fault.mp h with h | ⟨_, _, h⟩
    · exact load16_accessError (pop16_eq_error.mp h)
    · exact absurd h finish_ne_fault
  case rstN y =>
    rcases andThen_eq_fault.mp h with h | ⟨_, _, h⟩
    · exact store16_accessError (push16_eq_error.mp h)
    · exact absurd h jumpTo_ne_fault
  case prefixCB =>
    rcases andThen_eq_fault.mp h with h | ⟨_, _, h⟩
    · exact .inl ⟨_, h⟩
    · exact runExtended_accessError h
  case bitBT b d => exact execBitBT_accessError h
  case callCcA16 cc a16 =>
    simp only [exec, execCallCcA16] at h
    split at h
    · exact store16_accessError (callTo_eq_fault.mp h)
    · exact absurd h finish_ne_fault
  case retCc cc =>
    simp only [exec, execRetCc] at h
    split at h
    · exact load16_accessError (returnTo_eq_fault.mp h)
    · exact absurd h finish_ne_fault
  case jrCcE8 cc e8 =>
    simp only [exec, execJrCcE8] at h
    split at h
    · exact absurd h jumpTo_ne_fault
    · exact absurd h finish_ne_fault
  case jpCcA16 cc a16 =>
    simp only [exec, execJpCcA16] at h
    split at h
    · exact absurd h jumpTo_ne_fault
    · exact absurd h finish_ne_fault
  case jrE8 | jpA16 | jpHL => cases h
  case undefD3 | undefDB | undefDD | undefE3 | undefE4 | undefEB | undefEC | undefED | undefF4 | undefFC | undefFD =>
    cases h; exact .inr (.inr ⟨_, rfl⟩)
  case halt | stop => exact haltOrMiss_accessError h
  case callA16 => exact store16_accessError (callTo_eq_fault.mp h)
  case ret | reti => exact load16_accessError (returnTo_eq_fault.mp h)
  case nop | di | ei | ldRrD16 | ldSPHL | ldHLSPE8 | incRr | decRr | addHLRr | addSPE8 | rlca | rla | rrca | rra | cpl
      | ccf | scf | daa =>
    exact absurd h finish_ne_fault
  case ldABC | ldADE | ldAA16 | ldhAA8 | ldAC => exact .inl ⟨_, loadA_eq_fault.mp h⟩
  case ldBCA | ldDEA | ldA16A | ldhA8A | ldCA => exact .inr (.inl ⟨_, _, storeA_eq_fault.mp h⟩)
  case ldRR | ldRD8 | ldRHL | ldHLR | ldHLD8 | ldHLIncA | ldHLDecA | ldAHLInc | ldAHLDec =>
    simp only [exec, execLdRR, execLdRD8, execLdRHL, execLdHLR, execLdHLD8,
      execLdHLIncA, execLdHLDecA, execLdAHLInc, execLdAHLDec] at h
    exact move8_accessError (by simp) h
  case incR | incHL | decR | decHL | rlcT | rrcT | rlT | rrT | slaT | sraT | swapT | srlT | resBT | setBT =>
    simp only [exec, execIncR, execIncHL, execDecR, execDecHL, execRlcT, execRrcT, execRlT,
      execRrT, execSlaT, execSraT, execSwapT, execSrlT, execResBT, execSetBT] at h
    exact modify8_accessError (by first | exact selTarget_ne_imm _ | simp) h
  case cpR | cpHL | cpD8 =>
    simp only [exec, execCpR, execCpHL, execCpD8] at h
    exact rd8_accessError (compareA_eq_fault.mp h)
  all_goals
    simp only [exec, execAddAR, execAddAHL, execAddAD8, execAdcAR, execAdcAHL, execAdcAD8, execSubR, execSubHL, execSubD8,
      execSbcAR, execSbcAHL, execSbcAD8, execAndR, execAndHL, execAndD8, execXorR, execXorHL, execXorD8, execOrR, execOrHL, execOrD8] at h
    exact rd8_accessError (accumulate_eq_fault.mp h)

/-- No operation refuses. -/
theorem runExtended_ne_refused {b1 : Byte} {s : State} {r : Refusal} : runExtended b1 s ≠ .refused r := by
  unfold runExtended
  dsimp only
  split <;> first
    | exact andThen_ne_refused fun _ => andThen_ne_refused fun _ => finish_ne_refused
    | exact andThen_ne_refused fun _ => finish_ne_refused

/-- No instruction is refused. -/
theorem exec_ne_refused {i : Instr} {s : State} {r : Refusal} : exec i s ≠ .refused r := by
  cases i
  case prefixCB => exact andThen_ne_refused fun _ => runExtended_ne_refused
  case halt | stop => exact fun h => by rcases haltOrMiss_cases _ s with h1 | h1 <;> cases h1.symm.trans h
  case callCcA16 | retCc | jrCcE8 | jpCcA16 =>
    simp only [exec, execCallCcA16, execRetCc, execJrCcE8, execJpCcA16]
    split <;> first
      | exact finish_ne_refused
      | exact jumpTo_ne_refused
      | exact andThen_ne_refused fun _ => jumpTo_ne_refused
  all_goals first
    | exact finish_ne_refused
    | exact jumpTo_ne_refused
    | exact raise_ne_refused
    | exact andThen_ne_refused fun _ => finish_ne_refused
    | exact andThen_ne_refused fun _ => jumpTo_ne_refused
    | exact andThen_ne_refused fun _ => andThen_ne_refused fun _ => finish_ne_refused

end Sys2Proof.Machine
end

