-- ==== Sys2Proof/Tests/Slice0.lean ====
section
/-! SUPPORT. The author's own tests. Every expected value is a row of spec/95_test_vectors.md (its id in the docstring) or
a word written out from the `encoding` pattern of spec/opcode_table.json. After them, for every statement of
Obligations.lean with hypotheses, a witness that meets them, clause by clause. -/

namespace Sys2Proof.Tests

open Sys2Proof Sys2Proof.Machine Sys2Proof.Claims

/-! ## Fixtures of 95_test_vectors.md part 0 -/

/-- Cartridge T0 with an instruction at `pc`. -/
def t0 (pc : Word) (bytes : List Byte) : State := placeBytes { State.reset with pc := pc } pc bytes

/-- Cartridge T0S: nothing answers from 0x4000 to 0x7FFF. -/
def t0s (pc : Word) (bytes : List Byte) : State :=
  placeBytes { State.reset with pc := pc, cart := .type0 ⟨0x4000, []⟩ } pc bytes

/-- The image of cartridge T1: four banks, the first byte of each names it. -/
def t1Image : Image :=
  ⟨0x10000, [(0, 0xB0#8), (0x147, 0x01#8), (0x148, 0x01#8), (0x4000, 0xB1#8), (0x8000, 0xB2#8), (0xC000, 0xB3#8)]⟩

/-- Cartridge T1 with a bank selected. -/
def t1 (sel : Nat) (pc : Word) (bytes : List Byte) : State :=
  placeBytes { State.reset with pc := pc, cart := .type1 t1Image sel } pc bytes

/-- What the state after a step shows; false where the step fails. -/
def seen (s : State) (p : State → Bool) : Bool :=
  match step s with
  | .next t => p t
  | _ => false

/-- What a byte load gives. -/
def loads (s : State) (a : Word) (v : Byte) : Bool :=
  match busLoad s a with
  | .ok w => w == v
  | .error _ => false

/-- What the state after a byte store shows. -/
def stored (s : State) (a : Word) (v : Byte) (p : State → Bool) : Bool :=
  match busStore s a v with
  | .ok t => p t
  | .error _ => false

/-- What the state after a 16-bit store shows. -/
def stored16 (s : State) (a v : Word) (p : State → Bool) : Bool :=
  match store16 s a v with
  | .ok t => p t
  | .error _ => false

/-- The bank a state has selected. -/
def bankOf (s : State) : Nat :=
  match s.cart with
  | .type0 _ => 0
  | .type1 _ sel => sel

/-- The error of an access. -/
def errorOf {α : Type} (x : Except Fault α) : Option Fault :=
  match x with
  | .ok _ => none
  | .error e => some e

/-- The error of construction from an image of zeros with a type code and a size code. -/
def built (len : Nat) (code size : Byte) : Option Fault :=
  match construct BuildParams.default ⟨len, cellsPut 0#8 (cellsPut 0#8 [] 0x148 size) 0x147 code⟩ with
  | .fault e => some e
  | _ => none

/-- Every list of bytes decodes to its instruction, with nothing left. -/
def decodesTo (l : List (List Byte × Instr)) : Bool :=
  l.all fun p => match decodeRow p.1 with
    | .ok (i, rest) => i == p.2 && rest == []
    | .error _ => false

/-! ## WellFormed -/

theorem test_prefix_is_ill_formed : ¬Instr.WellFormed .prefixCB := by decide

theorem test_whole_instruction_is_well_formed : Instr.WellFormed (.rlcT .hlInd) ∧ Instr.WellFormed .undefD3 := by decide

/-! ## Decoding: every constructor, from its encoding pattern -/

theorem test_decode_x0 : decodesTo [
    ([0b00000000#8], .nop), ([0b00001000#8, 0b00110100#8, 0b00010010#8], .ldA16SP 0x1234#16),
    ([0b00010000#8, 0b11111110#8], .stop 0xFE#8), ([0b00011000#8, 0b10000000#8], .jrE8 0x80#8),
    ([0b00101000#8, 0b00000001#8], .jrCcE8 .Z 0x01#8),
    ([0b00010001#8, 0b00110100#8, 0b00010010#8], .ldRrD16 .DE 0x1234#16), ([0b00101001#8], .addHLRr .HL),
    ([0b00000010#8], .ldBCA), ([0b00010010#8], .ldDEA), ([0b00100010#8], .ldHLIncA), ([0b00110010#8], .ldHLDecA),
    ([0b00001010#8], .ldABC), ([0b00011010#8], .ldADE), ([0b00101010#8], .ldAHLInc), ([0b00111010#8], .ldAHLDec),
    ([0b00110011#8], .incRr .SP), ([0b00001011#8], .decRr .BC), ([0b00001100#8], .incR .C),
    ([0b00110100#8], .incHL), ([0b00100101#8], .decR .H), ([0b00110101#8], .decHL),
    ([0b00000110#8, 0b00111100#8], .ldRD8 .B 0x3C#8), ([0b00110110#8, 0b01011010#8], .ldHLD8 0x5A#8),
    ([0b00000111#8], .rlca), ([0b00001111#8], .rrca), ([0b00010111#8], .rla), ([0b00011111#8], .rra),
    ([0b00100111#8], .daa), ([0b00101111#8], .cpl), ([0b00110111#8], .scf), ([0b00111111#8], .ccf)] = true := by decide

theorem test_decode_loads : decodesTo [
    ([0b01011111#8], .ldRR .E .A), ([0b01010110#8], .ldRHL .D), ([0b01110101#8], .ldHLR .L),
    ([0b01110110#8], .halt)] = true := by decide

theorem test_decode_alu : decodesTo [
    ([0b10000001#8], .addAR .C), ([0b10000110#8], .addAHL), ([0b10001100#8], .adcAR .H), ([0b10001110#8], .adcAHL),
    ([0b10010000#8], .subR .B), ([0b10010110#8], .subHL), ([0b10011011#8], .sbcAR .E), ([0b10011110#8], .sbcAHL),
    ([0b10100111#8], .andR .A), ([0b10100110#8], .andHL), ([0b10101010#8], .xorR .D), ([0b10101110#8], .xorHL),
    ([0b10110101#8], .orR .L), ([0b10110110#8], .orHL), ([0b10111001#8], .cpR .C), ([0b10111110#8], .cpHL)] = true := by decide

theorem test_decode_x3 : decodesTo [
    ([0b11000110#8, 0b11111110#8], .addAD8 0xFE#8), ([0b11001110#8, 0b10000000#8], .adcAD8 0x80#8),
    ([0b11010110#8, 0b00000001#8], .subD8 0x01#8), ([0b11011110#8, 0b11000011#8], .sbcAD8 0xC3#8),
    ([0b11100110#8, 0b00111100#8], .andD8 0x3C#8), ([0b11101110#8, 0b01011010#8], .xorD8 0x5A#8),
    ([0b11110110#8, 0b11111110#8], .orD8 0xFE#8), ([0b11111110#8, 0b10000000#8], .cpD8 0x80#8),
    ([0b11010000#8], .retCc .NC), ([0b11100000#8, 0b00000001#8], .ldhA8A 0x01#8),
    ([0b11110000#8, 0b11000011#8], .ldhAA8 0xC3#8), ([0b11101000#8, 0b00111100#8], .addSPE8 0x3C#8),
    ([0b11111000#8, 0b01011010#8], .ldHLSPE8 0x5A#8), ([0b11010001#8], .popRr .DE), ([0b11001001#8], .ret),
    ([0b11011001#8], .reti), ([0b11101001#8], .jpHL), ([0b11111001#8], .ldSPHL),
    ([0b11011010#8, 0b11011110#8, 0b11000000#8], .jpCcA16 .C 0xC0DE#16), ([0b11100010#8], .ldCA),
    ([0b11110010#8], .ldAC), ([0b11101010#8, 0b00110100#8, 0b00010010#8], .ldA16A 0x1234#16),
    ([0b11111010#8, 0b11011110#8, 0b11000000#8], .ldAA16 0xC0DE#16),
    ([0b11000011#8, 0b00110100#8, 0b00010010#8], .jpA16 0x1234#16), ([0b11110011#8], .di), ([0b11111011#8], .ei),
    ([0b11000100#8, 0b11011110#8, 0b11000000#8], .callCcA16 .NZ 0xC0DE#16), ([0b11100101#8], .pushRr .HL),
    ([0b11001101#8, 0b00110100#8, 0b00010010#8], .callA16 0x1234#16), ([0b11001111#8], .rstN 1)] = true := by decide

theorem test_decode_undefined : decodesTo [
    ([0b11010011#8], .undefD3), ([0b11011011#8], .undefDB), ([0b11011101#8], .undefDD), ([0b11100011#8], .undefE3),
    ([0b11100100#8], .undefE4), ([0b11101011#8], .undefEB), ([0b11101100#8], .undefEC), ([0b11101101#8], .undefED),
    ([0b11110100#8], .undefF4), ([0b11111100#8], .undefFC), ([0b11111101#8], .undefFD)] = true := by decide

theorem test_decode_extended : decodesTo [
    ([0b11001011#8, 0b00000001#8], .rlcT (.reg .C)), ([0b11001011#8, 0b00001100#8], .rrcT (.reg .H)),
    ([0b11001011#8, 0b00010111#8], .rlT (.reg .A)), ([0b11001011#8, 0b00011010#8], .rrT (.reg .D)),
    ([0b11001011#8, 0b00100101#8], .slaT (.reg .L)), ([0b11001011#8, 0b00101000#8], .sraT (.reg .B)),
    ([0b11001011#8, 0b00110011#8], .swapT (.reg .E)), ([0b11001011#8, 0b00111110#8], .srlT .hlInd),
    ([0b11001011#8, 0b01100001#8], .bitBT 4 (.reg .C)), ([0b11001011#8, 0b10111100#8], .resBT 7 (.reg .H)),
    ([0b11001011#8, 0b11010111#8], .setBT 2 (.reg .A))] = true := by decide

/-- The prefix byte alone is the prefix row; before another byte it is half of an instruction. -/
theorem test_decode_prefix : primaryRow 0b11001011#8 0#8 0#8 = .prefixCB ∧
    decodesTo [([0b11001011#8, 0b11001011#8], .setBT 1 (.reg .E))] = true := by decide

theorem test_decode_table_words : decodeTableWord 8 0x41 = some (.ldRR .B .C) ∧
    decodeTableWord 16 0x2ECB = some (.sraT .hlInd) ∧ decodeTableWord 24 0x1234CD = some (.callA16 0x1234#16) ∧
    decodeTableWord 8 0xCD = some (.callA16 0x0000#16) := by decide

theorem test_fetch_of_a_placed_word : step (State.reset.withFetchWord 16 0x013E) =
    .next { State.reset.withFetchWord 16 0x013E with a := 0x01#8, pc := 0x0102#16 } := rfl

/-! ## One step of every instruction -/

/-- Row MSC-1. -/
theorem test_nop : seen { t0 0x0100#16 [0x00#8] with f := ⟨true, true, true, true⟩ } fun t =>
    t.f == ⟨true, true, true, true⟩ && t.pc == 0x0101#16 := by decide

/-- Row LD16-6. -/
theorem test_ldA16SP : seen { t0 0x0150#16 [0x08#8, 0x00#8, 0xC1#8] with sp := 0xDFF0#16 } fun t =>
    memGet t.mem 0xC101 == 0xDF#8 && memGet t.mem 0xC100 == 0xF0#8 && t.pc == 0x0153#16 := by decide

/-- Row FLT-15. -/
theorem test_stop : seen { t0 0x0200#16 [0x10#8, 0x00#8] with
      par := { Params.default with haltStop := .stuck } } fun t =>
    t.pc == 0x0200#16 := by decide

/-- Row S5.3. -/
theorem test_jrE8 : seen (t0 0xFFFF#16 [0x18#8, 0xFD#8]) fun t =>
    t.pc == 0xFFFE#16 := by decide

/-- Row JMP-6. -/
theorem test_jrCcE8 : seen (t0 0x0153#16 [0x20#8, 0xFB#8]) fun t =>
    t.pc == 0x0150#16 := by decide

/-- Row LD16-1. -/
theorem test_ldRrD16 : seen (t0 0x0150#16 [0x01#8, 0x34#8, 0x12#8]) fun t =>
    t.b == 0x12#8 && t.c == 0x34#8 && t.pc == 0x0153#16 := by decide

/-- Row A16-9. -/
theorem test_addHLRr : seen { t0 0x0150#16 [0x19#8] with
      h := 0xFF#8, l := 0xFF#8, d := 0x00#8, e := 0x01#8 } fun t =>
    t.h == 0x00#8 && t.l == 0x00#8 && t.f == ⟨false, false, true, true⟩ && t.pc == 0x0151#16 := by decide

/-- Row LD8-27. -/
theorem test_ldBCA : seen { t0 0x0150#16 [0x02#8] with b := 0xC1#8, c := 0x00#8, a := 0x77#8 } fun t =>
    memGet t.mem 0xC100 == 0x77#8 && t.pc == 0x0151#16 := by decide

/-- Row LD8-28. -/
theorem test_ldDEA : seen { t0 0x0150#16 [0x12#8] with d := 0xC1#8, e := 0x01#8, a := 0x78#8 } fun t =>
    memGet t.mem 0xC101 == 0x78#8 && t.pc == 0x0151#16 := by decide

/-- Row LD8-20. -/
theorem test_ldHLIncA : seen { t0 0x0150#16 [0x22#8] with h := 0xFF#8, l := 0xFF#8, a := 0x11#8 } fun t =>
    memGet t.mem 0xFFFF == 0x11#8 && t.h == 0x00#8 && t.l == 0x00#8 && t.pc == 0x0151#16 := by decide

/-- Row LD8-21. -/
theorem test_ldHLDecA : seen { t0 0x0150#16 [0x32#8] with h := 0xC0#8, l := 0x10#8, a := 0x22#8 } fun t =>
    memGet t.mem 0xC010 == 0x22#8 && t.l == 0x0F#8 && t.pc == 0x0151#16 := by decide

/-- Row LD8-30. -/
theorem test_ldADE : seen { t0 0x0150#16 [0x1A#8] with d := 0xC0#8, e := 0x00#8, mem := [(0xC000, 0x01#8)] } fun t =>
    t.a == 0x01#8 && t.pc == 0x0151#16 := by decide

/-- Row LD8-24. -/
theorem test_ldAHLInc : seen { t0 0x0150#16 [0x2A#8] with
      h := 0xFF#8, l := 0xFF#8, mem := [(0xFFFF, 0x77#8)] } fun t =>
    t.a == 0x77#8 && t.h == 0x00#8 && t.l == 0x00#8 && t.pc == 0x0151#16 := by decide

/-- Row LD8-25. -/
theorem test_ldAHLDec : seen { t0 0x0150#16 [0x3A#8] with
      h := 0xC0#8, l := 0x05#8, mem := [(0xC005, 0x5A#8)] } fun t =>
    t.a == 0x5A#8 && t.l == 0x04#8 && t.pc == 0x0151#16 := by decide

/-- Row A16-2. -/
theorem test_incRr : seen { t0 0x0150#16 [0x03#8] with b := 0x00#8, c := 0xFF#8 } fun t =>
    t.b == 0x01#8 && t.c == 0x00#8 && t.f == ⟨false, false, false, false⟩ && t.pc == 0x0151#16 := by decide

/-- Row A16-5. -/
theorem test_decRr : seen { t0 0x0150#16 [0x0B#8] with
      b := 0x01#8, c := 0x00#8, f := ⟨true, true, true, true⟩ } fun t =>
    t.b == 0x00#8 && t.c == 0xFF#8 && t.f == ⟨true, true, true, true⟩ && t.pc == 0x0151#16 := by decide

/-- Row S4.1. -/
theorem test_incR : seen { t0 0x0150#16 [0x04#8] with b := 0x0F#8 } fun t =>
    t.b == 0x10#8 && t.f == ⟨false, false, true, false⟩ && t.pc == 0x0151#16 := by decide

/-- Row S4.4. -/
theorem test_incHL : seen { t0 0x0150#16 [0x34#8] with
      h := 0xC0#8, l := 0x00#8, f := ⟨false, false, false, true⟩, mem := [(0xC000, 0xFF#8)] } fun t =>
    memGet t.mem 0xC000 == 0x00#8 && t.f == ⟨true, false, true, true⟩ && t.pc == 0x0151#16 := by decide

/-- Row INC-7. -/
theorem test_decR : seen { t0 0x0150#16 [0x2D#8] with l := 0x01#8, f := ⟨false, false, false, true⟩ } fun t =>
    t.l == 0x00#8 && t.f == ⟨true, true, false, true⟩ && t.pc == 0x0151#16 := by decide

/-- Row INC-10. -/
theorem test_decHL : seen { t0 0x0150#16 [0x35#8] with
      h := 0xC0#8, l := 0x00#8, f := ⟨false, false, false, true⟩, mem := [(0xC000, 0x00#8)] } fun t =>
    memGet t.mem 0xC000 == 0xFF#8 && t.f == ⟨false, true, true, true⟩ && t.pc == 0x0151#16 := by decide

/-- Row LD8-5. -/
theorem test_ldRD8 : seen (t0 0x0150#16 [0x3E#8, 0x42#8]) fun t =>
    t.a == 0x42#8 && t.pc == 0x0152#16 := by decide

/-- Row LD8-17. -/
theorem test_ldHLD8 : seen { t0 0x0150#16 [0x36#8, 0x5A#8] with h := 0xFF#8, l := 0xFF#8 } fun t =>
    memGet t.mem 0xFFFF == 0x5A#8 && t.pc == 0x0152#16 := by decide

/-- Row ROT-33. -/
theorem test_rlca : seen { t0 0x0150#16 [0x07#8] with a := 0x85#8 } fun t =>
    t.a == 0x0B#8 && t.f == ⟨false, false, false, true⟩ && t.pc == 0x0151#16 := by decide

/-- Row ROT-37. -/
theorem test_rrca : seen { t0 0x0150#16 [0x0F#8] with a := 0x3B#8 } fun t =>
    t.a == 0x9D#8 && t.f == ⟨false, false, false, true⟩ && t.pc == 0x0151#16 := by decide

/-- Row ROT-35. -/
theorem test_rla : seen { t0 0x0150#16 [0x17#8] with a := 0x95#8, f := ⟨false, false, false, true⟩ } fun t =>
    t.a == 0x2B#8 && t.f == ⟨false, false, false, true⟩ && t.pc == 0x0151#16 := by decide

/-- Row ROT-39. -/
theorem test_rra : seen { t0 0x0150#16 [0x1F#8] with a := 0x81#8 } fun t =>
    t.a == 0x40#8 && t.f == ⟨false, false, false, true⟩ && t.pc == 0x0151#16 := by decide

/-- Row DAA-1. -/
theorem test_daa : seen { t0 0x0150#16 [0x27#8] with a := 0x7D#8 } fun t =>
    t.a == 0x83#8 && t.f == ⟨false, false, false, false⟩ && t.pc == 0x0151#16 := by decide

/-- Row MSC-4. -/
theorem test_cpl : seen { t0 0x0150#16 [0x2F#8] with a := 0x35#8 } fun t =>
    t.a == 0xCA#8 && t.f == ⟨false, true, true, false⟩ && t.pc == 0x0151#16 := by decide

/-- Row MSC-9. -/
theorem test_scf : seen (t0 0x0150#16 [0x37#8]) fun t =>
    t.f == ⟨false, false, false, true⟩ && t.pc == 0x0151#16 := by decide

/-- Row MSC-6. -/
theorem test_ccf : seen { t0 0x0150#16 [0x3F#8] with f := ⟨true, true, true, true⟩ } fun t =>
    t.f == ⟨true, false, false, false⟩ && t.pc == 0x0151#16 := by decide

/-- Row LD8-4. -/
theorem test_ldRR : seen { t0 0x0150#16 [0x6C#8] with h := 0xC0#8, l := 0xDE#8 } fun t =>
    t.l == 0xC0#8 && t.pc == 0x0151#16 := by decide

/-- Row LD8-8. -/
theorem test_ldRHL : seen { t0 0x0150#16 [0x66#8] with h := 0xC0#8, l := 0x00#8, mem := [(0xC000, 0x99#8)] } fun t =>
    t.h == 0x99#8 && t.pc == 0x0151#16 := by decide

/-- Row LD8-13. -/
theorem test_ldHLR : seen { t0 0x0150#16 [0x75#8] with h := 0xC0#8, l := 0xDE#8 } fun t =>
    memGet t.mem 0xC0DE == 0xDE#8 && t.pc == 0x0151#16 := by decide

/-- Row FLT-14. -/
theorem test_halt : seen { t0 0x0200#16 [0x76#8] with par := { Params.default with haltStop := .stuck } } fun t =>
    t.pc == 0x0200#16 := by decide

/-- Row ALU-2. -/
theorem test_addAR : seen { t0 0x0150#16 [0x87#8] with a := 0x88#8 } fun t =>
    t.a == 0x10#8 && t.f == ⟨false, false, true, true⟩ && t.pc == 0x0151#16 := by decide

/-- Row ALU-3. -/
theorem test_addAHL : seen { t0 0x0150#16 [0x86#8] with
      a := 0x01#8, h := 0xC0#8, l := 0x00#8, mem := [(0xC000, 0x0F#8)] } fun t =>
    t.a == 0x10#8 && t.f == ⟨false, false, true, false⟩ && t.pc == 0x0151#16 := by decide

/-- Row ADC-1. -/
theorem test_adcAR : seen { t0 0x0150#16 [0x8B#8] with
      a := 0xE1#8, e := 0x0F#8, f := ⟨false, false, false, true⟩ } fun t =>
    t.a == 0xF1#8 && t.f == ⟨false, false, true, false⟩ && t.pc == 0x0151#16 := by decide

/-- Row ADC-6. -/
theorem test_adcAHL : seen { t0 0x0150#16 [0x8E#8] with
      a := 0xE1#8, h := 0xC0#8, l := 0x00#8, f := ⟨false, false, false, true⟩, mem := [(0xC000, 0x1E#8)] } fun t =>
    t.a == 0x00#8 && t.f == ⟨true, false, false, false⟩ && t.pc == 0x0151#16 := by decide

/-- Row S3.2. -/
theorem test_subR : seen { t0 0x0150#16 [0x90#8] with a := 0x10#8, b := 0x01#8 } fun t =>
    t.a == 0x0F#8 && t.f == ⟨false, true, true, false⟩ && t.pc == 0x0151#16 := by decide

/-- Row ALU-10. -/
theorem test_subHL : seen { t0 0x0150#16 [0x96#8] with
      a := 0x3E#8, h := 0xC0#8, l := 0x00#8, mem := [(0xC000, 0x40#8)] } fun t =>
    t.a == 0xFE#8 && t.f == ⟨false, true, false, true⟩ && t.pc == 0x0151#16 := by decide

/-- Row ADC-10. -/
theorem test_sbcAR : seen { t0 0x0150#16 [0x9C#8] with
      a := 0x3B#8, h := 0x2A#8, f := ⟨false, false, false, true⟩ } fun t =>
    t.a == 0x10#8 && t.f == ⟨false, true, false, false⟩ && t.pc == 0x0151#16 := by decide

/-- Row ADC-15. -/
theorem test_sbcAHL : seen { t0 0x0150#16 [0x9E#8] with
      a := 0x3B#8, h := 0xC0#8, l := 0x00#8, f := ⟨false, false, false, true⟩, mem := [(0xC000, 0x4F#8)] } fun t =>
    t.a == 0xEB#8 && t.f == ⟨false, true, true, true⟩ && t.pc == 0x0151#16 := by decide

/-- Row ALU-12. -/
theorem test_andR : seen { t0 0x0150#16 [0xA5#8] with a := 0x5A#8, l := 0x3F#8 } fun t =>
    t.a == 0x1A#8 && t.f == ⟨false, false, true, false⟩ && t.pc == 0x0151#16 := by decide

/-- Row ALU-14. -/
theorem test_andHL : seen { t0 0x0150#16 [0xA6#8] with
      a := 0x5A#8, h := 0xC0#8, l := 0x00#8, mem := [(0xC000, 0x00#8)] } fun t =>
    t.a == 0x00#8 && t.f == ⟨true, false, true, false⟩ && t.pc == 0x0151#16 := by decide

/-- Row ALU-16. -/
theorem test_xorR : seen { t0 0x0150#16 [0xA8#8] with a := 0xFF#8, b := 0x0F#8 } fun t =>
    t.a == 0xF0#8 && t.f == ⟨false, false, false, false⟩ && t.pc == 0x0151#16 := by decide

/-- Row ALU-18. -/
theorem test_xorHL : seen { t0 0x0150#16 [0xAE#8] with
      a := 0xFF#8, h := 0xC0#8, l := 0x00#8, mem := [(0xC000, 0x8A#8)] } fun t =>
    t.a == 0x75#8 && t.f == ⟨false, false, false, false⟩ && t.pc == 0x0151#16 := by decide

/-- Row ALU-20. -/
theorem test_orR : seen { t0 0x0150#16 [0xB1#8] with a := 0x5A#8, c := 0x0F#8 } fun t =>
    t.a == 0x5F#8 && t.f == ⟨false, false, false, false⟩ && t.pc == 0x0151#16 := by decide

/-- Row ALU-22. -/
theorem test_orHL : seen { t0 0x0150#16 [0xB6#8] with
      a := 0x00#8, h := 0xC0#8, l := 0x00#8, mem := [(0xC000, 0x00#8)] } fun t =>
    t.f == ⟨true, false, false, false⟩ && t.pc == 0x0151#16 := by decide

/-- Row ALU-24. -/
theorem test_cpR : seen { t0 0x0150#16 [0xB8#8] with a := 0x3C#8, b := 0x2F#8 } fun t =>
    t.f == ⟨false, true, true, false⟩ && t.pc == 0x0151#16 := by decide

/-- Row ALU-26. -/
theorem test_cpHL : seen { t0 0x0150#16 [0xBE#8] with
      a := 0x3C#8, h := 0xC0#8, l := 0x00#8, mem := [(0xC000, 0x40#8)] } fun t =>
    t.f == ⟨false, true, false, true⟩ && t.pc == 0x0151#16 := by decide

/-- Row S2.1. -/
theorem test_addAD8 : seen { t0 0x0150#16 [0xC6#8, 0x01#8] with a := 0x0F#8 } fun t =>
    t.a == 0x10#8 && t.f == ⟨false, false, true, false⟩ && t.pc == 0x0152#16 := by decide

/-- Row ADC-7. -/
theorem test_adcAD8 : seen { t0 0x0150#16 [0xCE#8, 0x3B#8] with
      a := 0xE1#8, f := ⟨false, false, false, true⟩ } fun t =>
    t.a == 0x1D#8 && t.f == ⟨false, false, false, true⟩ && t.pc == 0x0152#16 := by decide

/-- Row S3.1. -/
theorem test_subD8 : seen { t0 0x0150#16 [0xD6#8, 0x01#8] with a := 0x10#8 } fun t =>
    t.a == 0x0F#8 && t.f == ⟨false, true, true, false⟩ && t.pc == 0x0152#16 := by decide

/-- Row ADC-16. -/
theorem test_sbcAD8 : seen { t0 0x0150#16 [0xDE#8, 0x3A#8] with
      a := 0x3B#8, f := ⟨false, false, false, true⟩ } fun t =>
    t.a == 0x00#8 && t.f == ⟨true, true, false, false⟩ && t.pc == 0x0152#16 := by decide

/-- Row ALU-15. -/
theorem test_andD8 : seen { t0 0x0150#16 [0xE6#8, 0x38#8] with a := 0x5A#8 } fun t =>
    t.a == 0x18#8 && t.f == ⟨false, false, true, false⟩ && t.pc == 0x0152#16 := by decide

/-- Row ALU-19. -/
theorem test_xorD8 : seen { t0 0x0150#16 [0xEE#8, 0xFF#8] with a := 0xFF#8 } fun t =>
    t.a == 0x00#8 && t.f == ⟨true, false, false, false⟩ && t.pc == 0x0152#16 := by decide

/-- Row ALU-23. -/
theorem test_orD8 : seen { t0 0x0150#16 [0xF6#8, 0x03#8] with a := 0x5A#8 } fun t =>
    t.a == 0x5B#8 && t.f == ⟨false, false, false, false⟩ && t.pc == 0x0152#16 := by decide

/-- Row ALU-27. -/
theorem test_cpD8 : seen { t0 0x0150#16 [0xFE#8, 0x3C#8] with a := 0x3C#8 } fun t =>
    t.f == ⟨true, true, false, false⟩ && t.pc == 0x0152#16 := by decide

/-- Row STK-24. -/
theorem test_retCc : seen { t0 0x0200#16 [0xD8#8] with sp := 0xCFFE#16 } fun t =>
    t.pc == 0x0201#16 := by decide

/-- Row LD8-34. -/
theorem test_ldhA8A : seen { t0 0x0150#16 [0xE0#8, 0x40#8] with a := 0x91#8 } fun t =>
    memGet t.mem 0xFF40 == 0x91#8 && t.pc == 0x0152#16 := by decide

/-- Row LD8-35. -/
theorem test_ldhAA8 : seen { t0 0x0150#16 [0xF0#8, 0x80#8] with mem := [(0xFF80, 0x33#8)] } fun t =>
    t.a == 0x33#8 && t.pc == 0x0152#16 := by decide

/-- Row A16-15. -/
theorem test_addSPE8 : seen { t0 0x0150#16 [0xE8#8, 0xFE#8] with sp := 0xDFF0#16 } fun t =>
    t.sp == 0xDFEE#16 && t.f == ⟨false, false, false, true⟩ && t.pc == 0x0152#16 := by decide

/-- Row LD16-9. -/
theorem test_ldHLSPE8 : seen { t0 0x0150#16 [0xF8#8, 0x02#8] with sp := 0xFFF8#16 } fun t =>
    t.h == 0xFF#8 && t.l == 0xFA#8 && t.f == ⟨false, false, false, false⟩ && t.pc == 0x0152#16 := by decide

/-- Row STK-8. -/
theorem test_popRr : seen { t0 0x0150#16 [0xD1#8] with
      sp := 0xCFFE#16, mem := [(0xCFFE, 0x34#8), (0xCFFF, 0x12#8)] } fun t =>
    t.d == 0x12#8 && t.e == 0x34#8 && t.sp == 0xD000#16 && t.pc == 0x0151#16 := by decide

/-- Row STK-23. -/
theorem test_ret : seen { t0 0x0150#16 [0xC9#8] with sp := 0x0000#16 } fun t =>
    t.sp == 0x0002#16 && t.pc == 0x0000#16 := by decide

/-- Row STK-32. -/
theorem test_reti : seen { t0 0x0150#16 [0xD9#8] with
      sp := 0xCFFE#16, mem := [(0xCFFE, 0x53#8), (0xCFFF, 0x01#8)] } fun t =>
    t.sp == 0xD000#16 && t.pc == 0x0153#16 := by decide

/-- Row JMP-22. -/
theorem test_jpHL : seen { t0 0x0150#16 [0xE9#8] with h := 0x40#8, l := 0x00#8 } fun t =>
    t.pc == 0x4000#16 := by decide

/-- Row LD16-8. -/
theorem test_ldSPHL : seen { t0 0x0150#16 [0xF9#8] with h := 0xD0#8, l := 0x00#8 } fun t =>
    t.sp == 0xD000#16 && t.pc == 0x0151#16 := by decide

/-- Row JMP-17. -/
theorem test_jpCcA16 : seen { t0 0x0200#16 [0xDA#8, 0x00#8, 0x40#8] with f := ⟨false, false, false, true⟩ } fun t =>
    t.pc == 0x4000#16 := by decide

/-- Row LD8-36. -/
theorem test_ldCA : seen { t0 0x0150#16 [0xE2#8] with c := 0x10#8, a := 0x80#8 } fun t =>
    memGet t.mem 0xFF10 == 0x80#8 && t.pc == 0x0151#16 := by decide

/-- Row LD8-37. -/
theorem test_ldAC : seen { t0 0x0150#16 [0xF2#8] with c := 0x00#8, mem := [(0xFF00, 0xCF#8)] } fun t =>
    t.a == 0xCF#8 && t.pc == 0x0151#16 := by decide

/-- Row LD8-31. -/
theorem test_ldA16A : seen { t0 0x0150#16 [0xEA#8, 0x00#8, 0xC2#8] with a := 0x3C#8 } fun t =>
    memGet t.mem 0xC200 == 0x3C#8 && t.pc == 0x0153#16 := by decide

/-- Row LD8-33. -/
theorem test_ldAA16 : seen (t1 2 0x0150#16 [0xFA#8, 0x00#8, 0x40#8]) fun t =>
    t.a == 0xB3#8 && t.pc == 0x0153#16 := by decide

/-- Row JMP-15. -/
theorem test_jpA16 : seen (t0 0x0101#16 [0xC3#8, 0x50#8, 0x01#8]) fun t =>
    t.pc == 0x0150#16 := by decide

/-- Row MSC-2. -/
theorem test_di : seen (t0 0x0150#16 [0xF3#8]) fun t =>
    t.f == ⟨false, false, false, false⟩ && t.pc == 0x0151#16 := by decide

/-- Row MSC-3. -/
theorem test_ei : seen (t0 0x0150#16 [0xFB#8]) fun t =>
    t.f == ⟨false, false, false, false⟩ && t.pc == 0x0151#16 := by decide

/-- Row STK-17. -/
theorem test_callCcA16 : seen { t0 0x0150#16 [0xC4#8, 0x00#8, 0x02#8] with sp := 0xD000#16 } fun t =>
    memGet t.mem 0xCFFF == 0x01#8 && memGet t.mem 0xCFFE == 0x53#8 && t.sp == 0xCFFE#16 &&
      t.pc == 0x0200#16 := by decide

/-- Row STK-1. -/
theorem test_pushRr : seen { t0 0x0150#16 [0xC5#8] with b := 0x12#8, c := 0x34#8, sp := 0xD000#16 } fun t =>
    memGet t.mem 0xCFFF == 0x12#8 && memGet t.mem 0xCFFE == 0x34#8 && t.sp == 0xCFFE#16 &&
      t.pc == 0x0151#16 := by decide

/-- Row STK-13. -/
theorem test_callA16 : seen { t0 0x0150#16 [0xCD#8, 0x00#8, 0x02#8] with sp := 0xD000#16 } fun t =>
    memGet t.mem 0xCFFF == 0x01#8 && memGet t.mem 0xCFFE == 0x53#8 && t.sp == 0xCFFE#16 &&
      t.pc == 0x0200#16 := by decide

/-- Row STK-29. -/
theorem test_rstN : seen { t0 0x0150#16 [0xEF#8] with sp := 0xD000#16 } fun t =>
    memGet t.mem 0xCFFF == 0x01#8 && memGet t.mem 0xCFFE == 0x51#8 && t.sp == 0xCFFE#16 &&
      t.pc == 0x0028#16 := by decide

/-- Row FLT-1. -/
theorem test_undefD3 : step (t0 0x0150#16 [0xD3#8]) = .fault (.unknownOpcode 0xD3#8) := rfl

/-- Row FLT-2. -/
theorem test_undefDB : step (t0 0x0150#16 [0xDB#8]) = .fault (.unknownOpcode 0xDB#8) := rfl

/-- Row FLT-3. -/
theorem test_undefDD : step (t0 0x0150#16 [0xDD#8]) = .fault (.unknownOpcode 0xDD#8) := rfl

/-- Row FLT-4. -/
theorem test_undefE3 : step (t0 0x0150#16 [0xE3#8]) = .fault (.unknownOpcode 0xE3#8) := rfl

/-- Row FLT-5. -/
theorem test_undefE4 : step (t0 0x0150#16 [0xE4#8]) = .fault (.unknownOpcode 0xE4#8) := rfl

/-- Row FLT-6. -/
theorem test_undefEB : step (t0 0x0150#16 [0xEB#8]) = .fault (.unknownOpcode 0xEB#8) := rfl

/-- Row FLT-7. -/
theorem test_undefEC : step (t0 0x0150#16 [0xEC#8]) = .fault (.unknownOpcode 0xEC#8) := rfl

/-- Row FLT-8. -/
theorem test_undefED : step (t0 0x0150#16 [0xED#8]) = .fault (.unknownOpcode 0xED#8) := rfl

/-- Row FLT-9. -/
theorem test_undefF4 : step (t0 0x0150#16 [0xF4#8]) = .fault (.unknownOpcode 0xF4#8) := rfl

/-- Row FLT-10. -/
theorem test_undefFC : step (t0 0x0150#16 [0xFC#8]) = .fault (.unknownOpcode 0xFC#8) := rfl

/-- Row FLT-11. -/
theorem test_undefFD : step (t0 0x0150#16 [0xFD#8]) = .fault (.unknownOpcode 0xFD#8) := rfl

/-- Row ROT-1. -/
theorem test_rlcT : seen { t0 0x0150#16 [0xCB#8, 0x00#8] with b := 0x85#8 } fun t =>
    t.b == 0x0B#8 && t.f == ⟨false, false, false, true⟩ && t.pc == 0x0152#16 := by decide

/-- Row ROT-5. -/
theorem test_rrcT : seen { t0 0x0150#16 [0xCB#8, 0x09#8] with c := 0x01#8 } fun t =>
    t.c == 0x80#8 && t.f == ⟨false, false, false, true⟩ && t.pc == 0x0152#16 := by decide

/-- Row ROT-8. -/
theorem test_rlT : seen { t0 0x0150#16 [0xCB#8, 0x15#8] with l := 0x80#8 } fun t =>
    t.l == 0x00#8 && t.f == ⟨true, false, false, true⟩ && t.pc == 0x0152#16 := by decide

/-- Row ROT-12. -/
theorem test_rrT : seen { t0 0x0150#16 [0xCB#8, 0x1F#8] with a := 0x01#8 } fun t =>
    t.a == 0x00#8 && t.f == ⟨true, false, false, true⟩ && t.pc == 0x0152#16 := by decide

/-- Row ROT-15. -/
theorem test_slaT : seen { t0 0x0150#16 [0xCB#8, 0x22#8] with d := 0x80#8 } fun t =>
    t.d == 0x00#8 && t.f == ⟨true, false, false, true⟩ && t.pc == 0x0152#16 := by decide

/-- Row ROT-19. -/
theorem test_sraT : seen { t0 0x0150#16 [0xCB#8, 0x2F#8] with a := 0x8A#8 } fun t =>
    t.a == 0xC5#8 && t.f == ⟨false, false, false, false⟩ && t.pc == 0x0152#16 := by decide

/-- Row ROT-24. -/
theorem test_swapT : seen { t0 0x0150#16 [0xCB#8, 0x37#8] with
      a := 0xF1#8, f := ⟨false, false, false, true⟩ } fun t =>
    t.a == 0x1F#8 && t.f == ⟨false, false, false, false⟩ && t.pc == 0x0152#16 := by decide

/-- Row ROT-28. -/
theorem test_srlT : seen { t0 0x0150#16 [0xCB#8, 0x3C#8] with h := 0xFF#8 } fun t =>
    t.h == 0x7F#8 && t.f == ⟨false, false, false, true⟩ && t.pc == 0x0152#16 := by decide

/-- Row BIT-3. -/
theorem test_bitBT : seen { t0 0x0150#16 [0xCB#8, 0x5E#8] with
      h := 0xC0#8, l := 0x00#8, mem := [(0xC000, 0x08#8)] } fun t =>
    t.f == ⟨false, false, true, false⟩ && t.pc == 0x0152#16 := by decide

/-- Row BIT-6. -/
theorem test_resBT : seen { t0 0x0150#16 [0xCB#8, 0x87#8] with a := 0xFF#8, f := ⟨true, true, true, true⟩ } fun t =>
    t.a == 0xFE#8 && t.f == ⟨true, true, true, true⟩ && t.pc == 0x0152#16 := by decide

/-- Row MSC-8. -/
theorem test_setBT : seen { t0 0x0150#16 [0xCB#8, 0xCB#8] with e := 0x00#8 } fun t =>
    t.e == 0x02#8 && t.f == ⟨false, false, false, false⟩ && t.pc == 0x0152#16 := by decide

/-- Row LD8-29, with the byte in RAM. -/
theorem test_ldABC : seen { t0 0x0150#16 [0x0A#8] with b := 0xC0#8, c := 0x04#8, mem := [(0xC004, 0xCE#8)] } fun t =>
    t.a == 0xCE#8 && t.pc == 0x0151#16 := by decide

/-- The prefix row (48_misc.md R279): `SET 7,A` selected by the byte after the prefix. -/
theorem test_prefixCB : exec .prefixCB (t0 0x0150#16 [0xCB#8, 0xFF#8]) =
    .next { t0 0x0150#16 [0xCB#8, 0xFF#8] with a := 0x80#8, pc := 0x0152#16 } := rfl

/-- Row DAA-10: after a subtraction, both corrections. -/
theorem test_daa_subtract : seen { t0 0x0150#16 [0x27#8] with a := 0xFF#8, f := ⟨false, true, true, true⟩ } fun t =>
    t.a == 0x99#8 && t.f == ⟨false, true, false, true⟩ && t.pc == 0x0151#16 := by decide

/-- Row ADC-14, both values of CARRY_IN_FLAG_MODE. -/
theorem test_sbc_carry_modes :
    (seen { t0 0x0150#16 [0x9F#8] with a := 0x77#8, f := ⟨false, false, false, true⟩ } fun t =>
      t.a == 0xFF#8 && t.f == ⟨false, true, false, false⟩) &&
    (seen { t0 0x0150#16 [0x9F#8] with
      a := 0x77#8, f := ⟨false, false, false, true⟩, par := { Params.default with carryIn := .included } } fun t =>
      t.a == 0xFF#8 && t.f == ⟨false, true, true, true⟩) := by decide

/-! ## Memory, banks, construction -/

/-- Rows MEM-1, MEM-3, MEM-4, S7.4, S7.5. -/
theorem test_banked_loads : loads (t1 0 0x150#16 []) 0x0000#16 0xB0#8 && loads (t1 0 0x150#16 []) 0x4000#16 0xB1#8 &&
    loads (t1 0 0x150#16 []) 0x2000#16 0x00#8 && loads (t1 2 0x150#16 []) 0x4000#16 0xB3#8 &&
    loads (t1 2 0x150#16 []) 0x0000#16 0xB0#8 := by decide

/-- Rows BNK-1, BNK-4, BNK-8 (no bit of the value is masked). -/
theorem test_bank_select : stored (t1 1 0x150#16 []) 0x2000#16 0x00#8 (fun t => bankOf t == 0) &&
    stored (t1 1 0x150#16 []) 0x3FFF#16 0x03#8 (fun t => bankOf t == 2) &&
    stored { t1 1 0x150#16 [] with par := { Params.default with bankOor := .wrap } } 0x2000#16 0x20#8
      (fun t => bankOf t == 1) &&
    stored { t1 1 0x150#16 [] with par := { Params.default with bankOor := .ignore } } 0x2000#16 0x20#8
      (fun t => bankOf t == 1) := by decide

/-- Rows BNK-8, MEM-6, MEM-11, MT0-5, MT0-7. -/
theorem test_store_errors :
    errorOf (busStore (t1 1 0x150#16 []) 0x2000#16 0x20#8) = some (.unmappedAddress 0x2000#16) ∧
    errorOf (busStore (t1 1 0x150#16 []) 0x1FFF#16 0x01#8) = some (.permissionDenied 0x1FFF#16) ∧
    errorOf (busStore (t1 1 0x150#16 []) 0x4000#16 0x01#8) = some (.permissionDenied 0x4000#16) ∧
    errorOf (busStore (t0s 0x150#16 []) 0x2000#16 0x03#8) = some (.permissionDenied 0x2000#16) ∧
    errorOf (busStore (t0s 0x150#16 []) 0x4000#16 0x00#8) = some (.unmappedAddress 0x4000#16) := by decide

/-- Rows MEM-18, MEM-23 to MEM-25. -/
theorem test_word_stores : stored16 (t1 2 0x150#16 []) 0x2000#16 0x0201#16 (fun t => bankOf t == 1) &&
    stored16 (t1 1 0x150#16 []) 0x8000#16 0xBEEF#16 (fun t => t.mem == [(0x8000, 0xEF#8), (0x8001, 0xBE#8)]) := by decide

/-- Rows MEM-17, MEM-19, MEM-21. -/
theorem test_word_store_errors :
    errorOf (store16 (t1 2 0x150#16 []) 0x3FFF#16 0x0101#16) = some (.permissionDenied 0x4000#16) ∧
    errorOf (store16 (t1 2 0x150#16 []) 0x2000#16 0x0402#16) = some (.unmappedAddress 0x2001#16) ∧
    errorOf (store16 (t1 2 0x150#16 []) 0xFFFF#16 0x1234#16) = some (.permissionDenied 0x0000#16) := by decide

/-- Rows CON-1, CON-4, CON-5, CON-7, CON-9, CON-13, CON-14, CON-18. -/
theorem test_construction : built 0x8000 0x00#8 0x00#8 = none ∧ built 0x14A 0x00#8 0x00#8 = none ∧
    built 0x149 0x00#8 0x00#8 = some .imageGeometryMismatch ∧ built 0x8000 0x01#8 0x00#8 = none ∧
    built 0x10000 0x01#8 0x00#8 = some .imageGeometryMismatch ∧
    built 0x8000 0x01#8 0x09#8 = some .imageGeometryMismatch ∧
    built 0x8000 0x02#8 0x00#8 = some (.unsupportedCartridgeType 0x02#8) ∧
    built 0x10000 0x00#8 0x01#8 = some .imageGeometryMismatch := by decide

/-- The canonical form: writing what an unlisted byte reads as removes the entry. -/
theorem test_canonical_memory : stored (t0 0x150#16 []) 0xC000#16 0x00#8 (fun t => t.mem == []) &&
    stored { t0 0x150#16 [] with mem := [(0xC000, 0x11#8), (0xC002, 0x22#8)] } 0xC000#16 0x00#8
      (fun t => t.mem == [(0xC002, 0x22#8)]) := by decide

/-! ## Witnesses: the hypotheses of the statements can be met -/

/-- BC, DE and HL in RAM; `sp` in the middle of it. -/
def ram : State := { t0 0x0150#16 [] with b := 0xC0#8, d := 0xC0#8, h := 0xC0#8, c := 0x00#8, sp := 0xD000#16 }

/-- The same on a platform with no region: nothing answers from 0x8000 up. -/
def bare : State := { ram with par := { Params.default with regions := [] } }

/-- HL in ROM: the byte can be read and not written. -/
def rom : State := { t0 0x0150#16 [] with h := 0x01#8, l := 0x50#8 }

/-- The 16-bit store at the top of RAM whose second byte falls on ROM. -/
def topSp : State := { ram with sp := 0x0001#16 }

/-- T1 at `LD (HL),0x03`, HL in the control port. -/
def selecting : State := { t1 0 0x0150#16 [0x36#8, 0x03#8] with h := 0x20#8 }

theorem witness_ConstructionGivesResetState :
    (∃ s, construct BuildParams.default blankImage = .next s) ∧ (∃ s, construct BuildParams.default t1Image = .next s) ∧
    BuildParams.default.typeMap (blankImage.byte 0x147) = some .type0 ∧
    BuildParams.default.typeMap (t1Image.byte 0x147) = some .type1 ∧
    (Params.default.regions.any fun r => inWindow r 0x8000) = true ∧
    (Params.default.regions.any fun r => inWindow r 0xFFFF) = true :=
  ⟨⟨_, rfl⟩, ⟨_, rfl⟩, rfl, rfl, rfl, rfl⟩

theorem witness_ConstructionSucceedsExactlyOnFittingImages :
    (0x14A ≤ blankImage.len ∧ blankImage.byte 0x147 = 0x00#8 ∧ blankImage.len ≤ 0x8000) ∧
    (t1Image.byte 0x147 = 0x01#8 ∧ (t1Image.byte 0x148).toNat ≤ 8 ∧
      t1Image.len = 16384 * 2 ^ ((t1Image.byte 0x148).toNat + 1)) := by decide

theorem witness_ConstructionErrorsAreNamed :
    (Image.mk 0x149 []).len < 0x14A ∧
    (0x14A ≤ (Image.mk 0x14A [(0x147, 0x02#8)]).len ∧
      BuildParams.default.typeMap ((Image.mk 0x14A [(0x147, 0x02#8)]).byte 0x147) = none) ∧
    (BuildParams.default.typeMap ((Image.mk 0x8001 []).byte 0x147) = some .type0 ∧ 0x8000 < (Image.mk 0x8001 []).len) ∧
    (BuildParams.default.typeMap ((Image.mk 0x8000 [(0x147, 0x01#8), (0x148, 0x09#8)]).byte 0x147) = some .type1 ∧
      BuildParams.default.romBanks ((Image.mk 0x8000 [(0x147, 0x01#8), (0x148, 0x09#8)]).byte 0x148) = none) := by decide

theorem witness_MemoryRegionLoadAndStore : ∃ r q : Region, r.perm = .readWrite ∧ q.perm = .readOnly ∧
    (r.base ≤ (0x8000#16).toNat ∧ (0x8000#16).toNat < r.base + r.len) ∧
    (r.base ≤ (0xFFFF#16).toNat ∧ (0xFFFF#16).toNat < r.base + r.len) ∧
    ¬(r.base ≤ (0x7FFF#16).toNat ∧ (0x7FFF#16).toNat < r.base + r.len) ∧
    (q.base ≤ (0x4000#16).toNat ∧ (0x4000#16).toNat < q.base + q.len) ∧
    ¬(q.base ≤ (0x4010#16).toNat ∧ (0x4010#16).toNat < q.base + q.len) :=
  ⟨⟨0x8000, 0x8000, .readWrite⟩, ⟨0x4000, 0x10, .readOnly⟩, by decide⟩

theorem witness_BusRoutesByAddressRange :
    ¬OutsideCartridge ram 0x7FFF#16 ∧ OutsideCartridge ram 0x8000#16 ∧
    ram.par.regions = [] ++ ⟨0x8000, 0x8000, .readWrite⟩ :: [] ∧
    inWindow ⟨0x8000, 0x8000, .readWrite⟩ (0x8000#16).toNat = true ∧
    OutsideCartridge (t0s 0x150#16 []) 0x4000#16 ∧
    ∀ q ∈ (t0s 0x150#16 []).par.regions, inWindow q (0x4000#16).toNat = false := by
  simp only [OutsideCartridge]; decide

theorem witness_TypeZeroCartridgeIsReadOnly : ram.cart = .type0 blankImage ∧ (0x7FFF#16).toNat < blankImage.len := by
  decide

theorem witness_TypeOneCartridgeLoads : (0x3FFF#16).toNat ≤ 0x3FFF ∧
    (0x4000 ≤ (0x4000#16).toNat ∧ (0x4000#16).toNat ≤ 0x7FFF) ∧
    (0x4000 ≤ (0x7FFF#16).toNat ∧ (0x7FFF#16).toNat ≤ 0x7FFF) ∧ 0x8000 ≤ (0x8000#16).toNat := by decide

theorem witness_TypeOneCartridgeStores :
    (0x2000 ≤ (0x2000#16).toNat ∧ (0x3FFF#16).toNat ≤ 0x3FFF ∧ max (0x03#8).toNat 1 - 1 < t1Image.nsw ∧
      t1Image.nsw ≤ max (0x04#8).toNat 1 - 1 ∧ max (0x00#8).toNat 1 - 1 < t1Image.nsw) ∧
    (0x1FFF#16).toNat ≤ 0x1FFF ∧ (0x4000 ≤ (0x4000#16).toNat ∧ (0x7FFF#16).toNat ≤ 0x7FFF) ∧
    0x8000 ≤ (0x8000#16).toNat := by decide

theorem witness_StoreChangesOneByteOrTheBank : (∃ t, busStore ram 0xFFFF#16 0x12#8 = .ok t) ∧
    (∃ t, busStore (t1 0 0x150#16 []) 0x3FFF#16 0x02#8 = .ok t) := ⟨⟨_, rfl⟩, ⟨_, rfl⟩⟩

theorem witness_WordLoadIsTwoByteLoads :
    (busLoad ram 0xC000#16 = .ok 0x00#8 ∧ busLoad ram 0xC001#16 = .ok 0x00#8) ∧
    busLoad (t0s 0x150#16 []) 0x4000#16 = .error (.unmappedAddress 0x4000#16) ∧
    (busLoad (t0s 0x150#16 []) 0x3FFF#16 = .ok 0x00#8 ∧
      busLoad (t0s 0x150#16 []) 0x4000#16 = .error (.unmappedAddress 0x4000#16)) :=
  ⟨⟨rfl, rfl⟩, rfl, rfl, rfl⟩

theorem witness_WordStoreIsAllOrNothing :
    ((0x34#8).toNat = (0x1234#16).toNat % 256 ∧ (0x12#8).toNat = (0x1234#16).toNat / 256) ∧
    busStore ram 0x7FFF#16 0x34#8 = .error (.permissionDenied 0x7FFF#16) ∧
    ((∃ t, busStore ram 0xFFFF#16 0x34#8 = .ok t) ∧
      busStore ram 0x0000#16 0x12#8 = .error (.permissionDenied 0x0000#16)) ∧
    ((∃ t, busStore ram 0xFFFE#16 0x34#8 = .ok t) ∧ ∃ t, busStore ram 0xFFFF#16 0x12#8 = .ok t) :=
  ⟨by decide, rfl, ⟨⟨_, rfl⟩, rfl⟩, ⟨_, rfl⟩, ⟨_, rfl⟩⟩

theorem witness_WordStoreIsLittleEndian : (∃ t, store16 ram 0x8000#16 0xBEEF#16 = .ok t) ∧
    OutsideCartridge ram 0x8000#16 ∧ OutsideCartridge ram 0x8001#16 :=
  ⟨⟨_, rfl⟩, by simp only [OutsideCartridge]; decide, by simp only [OutsideCartridge]; decide⟩

theorem witness_PairAccessorsRoundTrip : Rp2.BC ≠ Rp2.AF ∧ Rp2.HL ≠ Rp2.AF := by decide

theorem witness_DecodeOfEncodeIsTheInstruction : Instr.WellFormed .nop ∧ Instr.WellFormed (.setBT 7 .hlInd) := by decide

theorem witness_EncodeOfDecodeIsTheBytes : decodeRow [0xC3#8, 0x34#8, 0x12#8, 0xFF#8] = .ok (.jpA16 0x1234#16, [0xFF#8]) ∧
    decodeRow [0xCB#8, 0xFF#8] = .ok (.setBT 7 (.reg .A), []) := ⟨rfl, rfl⟩

theorem witness_FirstByteFixesTheLength :
    (0x00#8 ≠ 0xCB#8 ∧ ∀ i, (0x00#8, i) ∉ undefinedRows) ∧ (0xFF#8 ≠ 0xCB#8 ∧ ∀ i, (0xFF#8, i) ∉ undefinedRows) := by
  simp [undefinedRows]

theorem witness_PrimaryTableMissesExactlyTheListedBytes :
    0x00#8 ≠ 0xCB#8 ∧ ¬Misses Params.default 0x00#8 ∧ Misses Params.default 0xD3#8 ∧ Misses Params.default 0x76#8 := by
  refine ⟨by decide, ?_, .inl ⟨_, .head _⟩, .inr (.inl ⟨rfl, .inl rfl⟩)⟩
  rintro (⟨i, h⟩ | ⟨_, h⟩ | ⟨h, _⟩)
  · simp [undefinedRows] at h
  · revert h; decide
  · cases h

theorem witness_StepRunsTheDecodedInstruction :
    BytesAt (t0 0x7FFF#16 [0xC3#8, 0x34#8, 0x12#8]) 0x7FFF#16 [0xC3#8, 0x34#8, 0x12#8] ∧
    decode Params.default [0xC3#8, 0x34#8, 0x12#8] = .ok (.jpA16 0x1234#16, []) := ⟨⟨rfl, rfl, rfl, trivial⟩, rfl⟩

theorem witness_FirstErrorOfFetchIsReported :
    busLoad (t0s 0x4000#16 []) 0x4000#16 = .error (.unmappedAddress 0x4000#16) ∧
    (busLoad (t0 0x150#16 [0xD3#8]) 0x150#16 = .ok 0xD3#8 ∧ Misses Params.default 0xD3#8) ∧
    (busLoad (t0s 0x3FFF#16 [0xCB#8]) 0x3FFF#16 = .ok 0xCB#8 ∧
      busLoad (t0s 0x3FFF#16 [0xCB#8]) 0x4000#16 = .error (.unmappedAddress 0x4000#16)) ∧
    (busLoad (t0s 0x3FFF#16 [0x3E#8]) 0x3FFF#16 = .ok 0x3E#8 ∧ 2 ≤ (primaryRow 0x3E#8 0#8 0#8).length ∧
      busLoad (t0s 0x3FFF#16 [0x3E#8]) 0x4000#16 = .error (.unmappedAddress 0x4000#16)) ∧
    (busLoad (t0s 0x3FFE#16 [0xC3#8, 0x11#8]) 0x3FFE#16 = .ok 0xC3#8 ∧ (primaryRow 0xC3#8 0#8 0#8).length = 3 ∧
      busLoad (t0s 0x3FFE#16 [0xC3#8, 0x11#8]) 0x3FFF#16 = .ok 0x11#8 ∧
      busLoad (t0s 0x3FFE#16 [0xC3#8, 0x11#8]) 0x4000#16 = .error (.unmappedAddress 0x4000#16)) ∧
    ¬Misses Params.default 0x3E#8 ∧ ¬Misses Params.default 0xC3#8 := by
  refine ⟨rfl, ⟨rfl, .inl ⟨_, .head _⟩⟩, ⟨rfl, rfl⟩, ⟨rfl, by decide, rfl⟩, ⟨rfl, rfl, rfl, rfl⟩, ?_, ?_⟩ <;>
    (rintro (⟨i, h⟩ | ⟨_, h⟩ | ⟨h, _⟩)
     · simp [undefinedRows] at h
     · revert h; decide
     · cases h)

theorem witness_OnlyThreeErrorKindsEndAStep : step (t0 0x150#16 [0xD3#8]) = .fault (.unknownOpcode 0xD3#8) ∧
    step { t0 0x150#16 [0x36#8, 0x01#8] with h := 0x02#8 } = .fault (.permissionDenied 0x0200#16) ∧
    step (t0s 0x4000#16 []) = .fault (.unmappedAddress 0x4000#16) := ⟨rfl, rfl, rfl⟩

theorem witness_OnlyStoresArePermissionDenied :
    exec (.ldHLR .A) rom = .fault (.permissionDenied 0x0150#16) ∧ Instr.WellFormed (.ldHLR .A) ∧
    exec (.pushRr .BC) topSp = .fault (.permissionDenied 0x0000#16) := ⟨rfl, by decide, rfl⟩

theorem witness_FailedStepChangesNothing :
    StepPort defaultCycles (t0 0x150#16 [0xD3#8]) (.err .unknownOpcode) (t0 0x150#16 [0xD3#8]) ∧
    (t0 0x150#16 [0xD3#8]).par.faultState = .precise :=
  ⟨.err (e := .unknownOpcode 0xD3#8) rfl rfl, rfl⟩

theorem witness_CyclesNeverChangeTheState :
    StepPort defaultCycles (t0 0x150#16 []) (.ok 4) { t0 0x150#16 [] with pc := 0x0151#16 } ∧
    StepPort defaultCycles (t0 0x150#16 [0xD3#8]) (.err .unknownOpcode) (t0 0x150#16 [0xD3#8]) ∧
    step (t0 0x150#16 []) = .next { t0 0x150#16 [] with pc := 0x0151#16 } :=
  ⟨.ok (i := .nop) rfl rfl, .err (e := .unknownOpcode 0xD3#8) rfl rfl, rfl⟩

theorem witness_StepKeepsTheInvariant : selecting.Inv ∧ ∃ t, step selecting = .next t := ⟨by decide, _, rfl⟩

theorem witness_ConstructionMeetsTheInvariant : t1Image.wf = true ∧ ∃ s, construct BuildParams.default t1Image = .next s :=
  ⟨by decide, _, rfl⟩

theorem witness_StepKeepsImageAndParameters : ((∃ t, step ram = .next t) ∧ ∃ img, ram.cart = .type0 img) ∧
    (∃ t, step selecting = .next t) ∧ ∃ img sel, selecting.cart = .type1 img sel :=
  ⟨⟨⟨_, rfl⟩, _, rfl⟩, ⟨_, rfl⟩, _, _, rfl⟩

/-- The clauses of completion and the clauses of error. -/
theorem witness_ByteLoadsComplete :
    (busLoad ram ram.hl = .ok 0x00#8 ∧ busLoad ram ram.bc = .ok 0x00#8 ∧ busLoad ram ram.de = .ok 0x00#8 ∧
      busLoad ram 0x0000#16 = .ok 0x00#8 ∧ busLoad ram (0xFF#8 ++ 0x00#8) = .ok 0x00#8 ∧
      busLoad ram (0xFF#8 ++ ram.c) = .ok 0x00#8) ∧
    (busLoad bare bare.hl = .error (.unmappedAddress 0xC000#16) ∧
      busLoad bare bare.bc = .error (.unmappedAddress 0xC000#16) ∧
      busLoad bare bare.de = .error (.unmappedAddress 0xC000#16) ∧
      busLoad bare 0x8000#16 = .error (.unmappedAddress 0x8000#16) ∧
      busLoad bare (0xFF#8 ++ 0xFF#8) = .error (.unmappedAddress 0xFFFF#16) ∧
      busLoad bare (0xFF#8 ++ bare.c) = .error (.unmappedAddress 0xFF00#16)) :=
  ⟨⟨rfl, rfl, rfl, rfl, rfl, rfl⟩, rfl, rfl, rfl, rfl, rfl, rfl⟩

theorem witness_ByteStoresComplete :
    (∀ v, (∃ t, busStore ram ram.hl v = .ok t) ∧ (∃ t, busStore ram ram.bc v = .ok t) ∧
      (∃ t, busStore ram ram.de v = .ok t) ∧ (∃ t, busStore ram 0x8000#16 v = .ok t) ∧
      (∃ t, busStore ram (0xFF#8 ++ 0xFF#8) v = .ok t) ∧ ∃ t, busStore ram (0xFF#8 ++ ram.c) v = .ok t) ∧
    (∀ v, busStore bare bare.hl v = .error (.unmappedAddress 0xC000#16) ∧
      busStore bare bare.bc v = .error (.unmappedAddress 0xC000#16) ∧
      busStore bare bare.de v = .error (.unmappedAddress 0xC000#16) ∧
      busStore bare 0x7FFF#16 v = .error (.permissionDenied 0x7FFF#16) ∧
      busStore bare (0xFF#8 ++ 0x00#8) v = .error (.unmappedAddress 0xFF00#16) ∧
      busStore bare (0xFF#8 ++ bare.c) v = .error (.unmappedAddress 0xFF00#16)) :=
  ⟨fun _ => ⟨⟨_, rfl⟩, ⟨_, rfl⟩, ⟨_, rfl⟩, ⟨_, rfl⟩, ⟨_, rfl⟩, ⟨_, rfl⟩⟩, fun _ => ⟨rfl, rfl, rfl, rfl, rfl, rfl⟩⟩

theorem witness_WordLoadsComplete : (∃ t, store16 ram 0x8000#16 ram.sp = .ok t) ∧
    store16 ram 0xFFFF#16 ram.sp = .error (.permissionDenied 0x0000#16) := ⟨⟨_, rfl⟩, rfl⟩

/-- For every statement in the form AluForms (ADD, ADC, SUB, SBC, CP, AND, XOR, OR) and for BIT. -/
theorem witness_AluForms : busLoad ram ram.hl = .ok 0x00#8 ∧
    busLoad bare bare.hl = .error (.unmappedAddress 0xC000#16) := ⟨rfl, rfl⟩

/-- For every statement in the form ModifiesHL (INC, DEC, the extended operations, RES, SET), whatever the operation. -/
theorem witness_ModifiesHL : ∀ op : Flags → Byte → Byte × Flags,
    (busLoad ram ram.hl = .ok 0x00#8 ∧ ∃ t, busStore ram ram.hl (op ram.f 0x00#8).1 = .ok t) ∧
    busLoad bare bare.hl = .error (.unmappedAddress 0xC000#16) ∧
    (busLoad rom rom.hl = .ok 0x00#8 ∧
      busStore rom rom.hl (op rom.f 0x00#8).1 = .error (.permissionDenied 0x0150#16)) :=
  fun _ => ⟨⟨rfl, _, rfl⟩, rfl, rfl, rfl⟩

theorem witness_PushAndPopMoveTheStack :
    (∃ t, store16 ram (ram.sp - 2#16) (ram.rp2 .BC) = .ok t) ∧
    store16 topSp (topSp.sp - 2#16) (topSp.rp2 .AF) = .error (.permissionDenied 0x0000#16) ∧
    load16 ram ram.sp = .ok 0x0000#16 ∧ load16 bare bare.sp = .error (.unmappedAddress 0xD000#16) :=
  ⟨⟨_, rfl⟩, rfl, rfl, rfl⟩

theorem witness_PushThenPopGivesTheValueBack : (∃ t, exec (.pushRr .BC) ram = .next t) ∧
    OutsideCartridge ram (ram.sp - 2#16) ∧ OutsideCartridge ram (ram.sp - 1#16) ∧ Rp2.DE ≠ Rp2.AF :=
  ⟨⟨_, rfl⟩, by simp only [OutsideCartridge]; decide, by simp only [OutsideCartridge]; decide, by decide⟩

theorem witness_CallsPushTheReturnAddress :
    (∃ t, store16 ram (ram.sp - 2#16) (ram.pc + 3#16) = .ok t) ∧
    store16 topSp (topSp.sp - 2#16) (topSp.pc + 3#16) = .error (.permissionDenied 0x0000#16) ∧
    (∃ t, store16 ram (ram.sp - 2#16) (ram.pc + 1#16) = .ok t) ∧
    store16 topSp (topSp.sp - 2#16) (topSp.pc + 1#16) = .error (.permissionDenied 0x0000#16) ∧
    (∃ t, store16 ram (ram.sp - 2#16) (ram.pc + 2#16) = .ok t) ∧
    ram.f.cond .NZ = true ∧ ram.f.cond .Z = false ∧ ram.par.rstBias = .one ∧
    { ram with par := { Params.default with rstBias := .two } }.par.rstBias = .two :=
  ⟨⟨_, rfl⟩, rfl, ⟨_, rfl⟩, rfl, ⟨_, rfl⟩, rfl, rfl, rfl, rfl⟩

theorem witness_ReturnsPopIntoPc : load16 ram ram.sp = .ok 0x0000#16 ∧
    load16 bare bare.sp = .error (.unmappedAddress 0xD000#16) ∧ ram.f.cond .NC = true ∧ ram.f.cond .C = false :=
  ⟨rfl, rfl, rfl, rfl⟩

theorem witness_JumpsGoToTheirTarget :
    true = (match Cond.NZ with | .NZ => !ram.f.z | .Z => ram.f.z | .NC => !ram.f.c | .C => ram.f.c) ∧
    false = (match Cond.C with | .NZ => !ram.f.z | .Z => ram.f.z | .NC => !ram.f.c | .C => ram.f.c) := ⟨rfl, rfl⟩

/-- HALT and STOP at 0x0150 with the mode `stuck`. -/
def stuck (op : Byte) : State := { t0 0x0150#16 [op] with par := { Params.default with haltStop := .stuck } }

theorem witness_HaltAndStopByMode :
    ((stuck 0x76#8).par.haltStop = .stuck ∧ (stuck 0x76#8).par.extent = .referenceFull ∧
      busLoad (stuck 0x76#8) 0x0150#16 = .ok 0x76#8) ∧
    (busLoad (stuck 0x10#8) 0x0150#16 = .ok 0x10#8 ∧ busLoad (stuck 0x10#8) 0x0151#16 = .ok 0x00#8) ∧
    (ram.par.haltStop = .unknownOpcode ∧ busLoad (t0 0x150#16 [0x76#8]) 0x150#16 = .ok 0x76#8 ∧
      busLoad (t0 0x150#16 [0x10#8]) 0x150#16 = .ok 0x10#8) :=
  ⟨⟨rfl, rfl, rfl⟩, ⟨rfl, rfl⟩, rfl, rfl, rfl⟩

theorem witness_UndefinedBytesRaiseUnknownOpcode : (0xD3#8, Instr.undefD3) ∈ undefinedRows ∧
    (0xFD#8, Instr.undefFD) ∈ undefinedRows ∧ busLoad (t0 0x150#16 [0xFD#8]) 0x150#16 = .ok 0xFD#8 :=
  ⟨by decide, by decide, rfl⟩

theorem witness_PrefixRunsTheExtendedInstruction :
    (busLoad (t0 0x150#16 [0xCB#8, 0x3F#8]) 0x151#16 = .ok 0x3F#8 ∧ (0x3F#8).toNat % 8 ≠ 6 ∧
      busLoad (t0 0x150#16 [0xCB#8, 0x3F#8]) 0x150#16 = .ok 0xCB#8) ∧
    busLoad (t0s 0x3FFF#16 [0xCB#8]) ((0x3FFF#16) + 1#16) = .error (.unmappedAddress 0x4000#16) :=
  ⟨⟨rfl, by decide, rfl⟩, rfl⟩

/-- For the frame statements: an instruction that completes, with a register, a flag and `sp` it does not write. -/
theorem witness_Frames : Instr.WellFormed (.incR .B) ∧ (∃ t, exec (.incR .B) ram = .next t) ∧
    Reg8.A ∉ writtenRegs (.incR .B) ∧ writesSp (.incR .B) = false ∧ transfers (.incR .B) ram = false ∧
    Instr.incR .B ≠ .halt ∧ (∀ pad, Instr.incR .B ≠ .stop pad) ∧ storesAt (.incR .B) ram = none ∧
    ((∃ t, exec (.callCcA16 .Z 0x1234#16) ram = .next t) ∧ transferCond (.callCcA16 .Z 0x1234#16) ≠ none ∧
      transfers (.callCcA16 .Z 0x1234#16) ram = false) :=
  ⟨by decide, ⟨_, rfl⟩, by decide, rfl, rfl, by decide, nofun, rfl, ⟨_, rfl⟩, by decide, rfl⟩

theorem witness_BytesNotStoredAreKept :
    (∃ t, exec (.ldHLR .A) ram = .next t ∧ t.cart = ram.cart) ∧
    (∃ t, exec (.ldHLD8 0x03#8) selecting = .next t ∧ t.cart ≠ selecting.cart) ∧
    ¬InSwitchable 0x3FFF#16 ∧ ¬InSwitchable 0x8000#16 ∧ ¬IsStored (.ldHLR .A) ram 0xC001#16 :=
  ⟨⟨_, rfl, rfl⟩, ⟨_, rfl, by decide⟩, by simp [InSwitchable], by simp [InSwitchable], by
    rintro ⟨w, n, h, k, hk, ha⟩
    cases h
    obtain rfl : k = 0 := by omega
    revert ha; decide⟩

theorem witness_BankSelectActsOnTheNextFetch : ∃ img, selecting.cart = .type1 img 0 ∧ InControlPort selecting.hl ∧
    max (0x03#8).toNat 1 - 1 < img.nsw ∧ max (0x00#8).toNat 1 - 1 < img.nsw ∧
    InSwitchable 0x4000#16 ∧ InSwitchable 0x7FFF#16 :=
  ⟨_, rfl, by simp only [InControlPort]; decide, by decide, by decide, by simp [InSwitchable], by simp [InSwitchable]⟩

/-- T1 at `LD (HL),0x03` in the switchable window, HL in the control port. -/
def selectingThere (pc : Word) : State := { t1 0 pc [0x36#8, 0x03#8] with h := 0x20#8 }

/-- The clause of the step: the one byte of a NOP at `npc` in the new bank, at both ends of the window. -/
theorem witness_BankSelectActsOnTheNextFetch_step :
    (∃ img, (selectingThere 0x4000#16).cart = .type1 img 0 ∧ InControlPort (selectingThere 0x4000#16).hl ∧
      max (0x03#8).toNat 1 - 1 < img.nsw ∧ img.byte (0x4000 * 3 + 0x0002) = 0x00#8) ∧
    (∃ img, (selectingThere 0x7FFD#16).cart = .type1 img 0 ∧ InControlPort (selectingThere 0x7FFD#16).hl ∧
      max (0x03#8).toNat 1 - 1 < img.nsw ∧ img.byte (0x4000 * 3 + 0x3FFF) = 0x00#8) ∧
    decode (selectingThere 0x4000#16).par [0x00#8] = .ok (.nop, []) ∧
    InSwitchable (0x4000#16 + 2#16 + BitVec.ofNat 16 0) ∧ InSwitchable (0x7FFD#16 + 2#16 + BitVec.ofNat 16 0) ∧
    ∀ k b, [0x00#8][k]? = some b → k = 0 ∧ b = 0x00#8 :=
  ⟨⟨_, rfl, by simp only [InControlPort]; decide, by decide, by decide⟩,
   ⟨_, rfl, by simp only [InControlPort]; decide, by decide, by decide⟩, rfl,
   by simp [InSwitchable], by simp [InSwitchable], by
    intro k b h
    obtain ⟨hk, h⟩ := List.getElem?_eq_some_iff.mp h
    obtain rfl : k = 0 := by simpa using hk
    exact ⟨rfl, h.symm⟩⟩

/-- At 0xC000, HL the next address, A the opcode of `INC B`. -/
def writer : State := { ram with pc := 0xC000#16, l := 0x01#8, a := 0x04#8 }

theorem witness_StoredByteIsFetchedNext : writer.hl = writer.pc + 1#16 ∧ (∃ t, exec (.ldHLR .A) writer = .next t) ∧
    OutsideCartridge writer writer.hl ∧ decode writer.par [0x04#8] = .ok (.incR .B, []) ∧ writer.a = 0x04#8 :=
  ⟨rfl, ⟨_, rfl⟩, by simp only [OutsideCartridge]; decide, rfl, rfl⟩

end Sys2Proof.Tests
end

section
/-! The memory family (spec/20_memory.md): what the bus does once the route is known (R54), what a Type1 cartridge
reads (R66), and that an accepted store is one region byte or a bank select that repeating does not change (R76). -/

namespace Sys2Proof.Claims

open Sys2Proof Sys2Proof.Machine

/-! ## Routing (R53, R54) -/

theorem outsideCartridge_iff {s : State} {a : Word} :
    OutsideCartridge s a ↔ inWindow s.cart.window a.toNat = false := by
  simp [OutsideCartridge, inWindow]

theorem not_outsideCartridge_iff {s : State} {a : Word} :
    ¬OutsideCartridge s a ↔ inWindow s.cart.window a.toNat = true := by
  rw [outsideCartridge_iff, Bool.not_eq_false]

theorem route_of_not_outsideCartridge {s : State} {a : Word} (h : ¬OutsideCartridge s a) :
    route s a = some .cartridge :=
  if_pos (not_outsideCartridge_iff.mp h)

/-- Outside the cartridge the first region in list order whose window holds the address answers. -/
theorem route_of_firstRegion {s : State} {a : Word} {before after : List Region} {r : Region}
    (h : OutsideCartridge s a) (hs : s.par.regions = before ++ r :: after)
    (hb : ∀ q ∈ before, inWindow q a.toNat = false) (hr : inWindow r a.toNat = true) :
    route s a = some (.region r) := by
  have hf : s.par.regions.find? (fun q => inWindow q a.toNat) = some r :=
    List.find?_eq_some_iff_append.mpr ⟨hr, before, after, hs, fun q hq => by simp [hb q hq]⟩
  simp [route, outsideCartridge_iff.mp h, hf]

theorem route_of_unclaimed {s : State} {a : Word} (h : OutsideCartridge s a)
    (hn : ∀ q ∈ s.par.regions, inWindow q a.toNat = false) : route s a = none := by
  have hf : s.par.regions.find? (fun q => inWindow q a.toNat) = none :=
    List.find?_eq_none.mpr fun q hq => by simp [hn q hq]
  simp [route, outsideCartridge_iff.mp h, hf]

/-! ## Loads and stores along a route -/

theorem busLoad_of_route_region {s : State} {a : Word} {r : Region} (h : route s a = some (.region r)) :
    busLoad s a = regionLoad unlistedByte r s.mem a := by
  simp [busLoad, h]

/-- The cartridge's answer to a store is the bus's: its next state put in place, its error passed on. -/
theorem busStore_of_route_cartridge {s : State} {a : Word} (v : Byte) (h : route s a = some .cartridge) :
    busStore s a v = (cartStore s.par.bankOor s.cart a v).map fun c => { s with cart := c } := by
  simp only [busStore, h]
  cases cartStore s.par.bankOor s.cart a v <;> rfl

/-- A region's answer to a store is the bus's: its bytes put in place, its error passed on. -/
theorem busStore_of_route_region {s : State} {a : Word} {r : Region} (v : Byte) (h : route s a = some (.region r)) :
    busStore s a v = (regionStore unlistedByte r s.mem a v).map fun m => { s with mem := m } := by
  simp only [busStore, h]
  cases regionStore unlistedByte r s.mem a v <;> rfl

/-- Settles O6: the route is fixed by the address in each of the three cases, and the bus passes the device's answer
on. -/
theorem busRoutesByAddressRange : Obligations.BusRoutesByAddressRange := by
  intro s a v
  refine ⟨fun hin => ?_, fun hout before r after hs hb hr => ?_, fun hout hn => ?_⟩
  · have hroute := route_of_not_outsideCartridge hin
    exact ⟨busLoad_inside (not_outsideCartridge_iff.mp hin),
      fun c hc => by rw [busStore_of_route_cartridge v hroute, hc]; rfl,
      fun e he => by rw [busStore_of_route_cartridge v hroute, he]; rfl⟩
  · have hroute := route_of_firstRegion hout hs hb hr
    exact ⟨busLoad_of_route_region hroute,
      fun m hm => by rw [busStore_of_route_region v hroute, hm]; rfl,
      fun e he => by rw [busStore_of_route_region v hroute, he]; rfl⟩
  · have hroute := route_of_unclaimed hout hn
    exact ⟨by simp [busLoad, hroute], by simp [busStore, hroute]⟩

/-! ## The Type1 cartridge (R66 to R69) -/

theorem type1Offset_fixed (sel : Nat) {a : Nat} (h : a ≤ 0x3FFF) : type1Offset sel a = a :=
  if_pos (by omega)

theorem type1Offset_switchable (sel : Nat) {a : Nat} (h : 0x4000 ≤ a) :
    type1Offset sel a = 0x4000 * (sel + 1) + (a - 0x4000) :=
  if_neg (by omega)

theorem cartLoad_type1_inside (img : Image) (sel : Nat) {a : Word} (h : a.toNat ≤ 0x7FFF) :
    cartLoad (.type1 img sel) a = .ok (img.byte (type1Offset sel a.toNat)) :=
  if_pos h

theorem cartLoad_type1_above (img : Image) (sel : Nat) {a : Word} (h : 0x8000 ≤ a.toNat) :
    cartLoad (.type1 img sel) a = .error (.unmappedAddress a) :=
  if_neg (by omega)

/-- Settles O8: the window's two halves by the image offset each reads, then the addresses above it. -/
theorem typeOneCartridgeLoads : Obligations.TypeOneCartridgeLoads := by
  intro img sel a
  refine ⟨fun hfix => ?_, fun hlo hhi => ?_, cartLoad_type1_above img sel⟩
  · rw [cartLoad_type1_inside img sel (by omega), type1Offset_fixed sel hfix]
  · rw [cartLoad_type1_inside img sel hhi, type1Offset_switchable sel hlo]

/-- Under every policy of R69 a select that went through gives, from its own result, that result again. -/
theorem selectBank_idempotent {policy : BankOorPolicy} {nsw sel sel' n : Nat} {a : Word}
    (h : selectBank policy nsw sel n a = .ok sel') : selectBank policy nsw sel' n a = .ok sel' := by
  unfold selectBank at h ⊢
  split
  · rwa [if_pos ‹_›] at h
  · rw [if_neg ‹_›] at h
    cases policy with
    | fault => cases h
    | wrap => exact h
    | ignore => rfl

/-- The bus gives a control port store to a Type1 cartridge, whose bank select decides the next state. -/
theorem busStore_controlPort {s : State} {img : Image} {sel sel' : Nat} {a : Word} {v : Byte}
    (hc : s.cart = .type1 img sel) (ha : InControlPort a)
    (hs : selectBank s.par.bankOor img.nsw sel (bankIndex v) a = .ok sel') :
    busStore s a v = .ok { s with cart := .type1 img sel' } := by
  obtain ⟨hlo, hhi⟩ := ha
  have hin : ¬OutsideCartridge s a := by
    simp only [OutsideCartridge, hc, Cartridge.window]
    omega
  rw [busStore_of_route_cartridge v (route_of_not_outsideCartridge hin)]
  simp [cartStore, hc, hlo, hhi, hs, Except.map]

/-- Settles O10: by the two things an accepted store can be (`busStore_cases`). -/
theorem storeChangesOneByteOrTheBank : Obligations.StoreChangesOneByteOrTheBank := by
  intro s t a v h
  rcases busStore_cases h with ⟨hout, ⟨r, hmem, hr, _⟩, rfl⟩ | ⟨img, sel, sel', hc, hlo, hhi, hsel, rfl⟩
  · have hany : s.par.regions.any (fun q => inWindow q a.toNat) = true := List.any_eq_true.mpr ⟨r, hmem, hr⟩
    have hload := busLoad_afterRegionStore (v := v) hout hany
    exact .inl ⟨rfl, (hload a).trans (if_pos rfl), fun k hk => (hload k).trans (if_neg hk),
      fun m hm => (cellsGet_cellsPut ..).trans (if_neg hm), rfl⟩
  · exact .inr ⟨⟨hlo, hhi⟩, ⟨img, sel, sel', hc, rfl⟩, fun k hk => busLoad_afterSelect hc hk,
      busStore_controlPort (s := { s with cart := .type1 img sel' }) rfl ⟨hlo, hhi⟩ (selectBank_idempotent hsel)⟩

end Sys2Proof.Claims
end

section
/-! The invariant family (spec/20_memory.md R53, R65; spec/10_state.md R32): construction meets the invariant, a store
keeps it, and so does a step, whose effect on memory and the cartridge is that of one store at most (`step_effect`). -/

namespace Sys2Proof.Claims

open Sys2Proof Sys2Proof.Machine

/-! ## What the invariant depends on -/

/-- The invariant speaks of memory, the cartridge and the parameters alone. -/
theorem inv_congr {s t : State} (hm : t.mem = s.mem) (hc : t.cart = s.cart) (hp : t.par = s.par) (hs : s.Inv) :
    t.Inv := by
  unfold State.Inv at *
  rwa [hm, hc, hp]

/-! ## Stores -/

/-- A bank select from a bank that exists selects one that exists, under every policy of R69. -/
theorem selectBank_lt {policy : BankOorPolicy} {nsw sel sel' n : Nat} {a : Word}
    (h : selectBank policy nsw sel n a = .ok sel') (hsel : sel < nsw) : sel' < nsw := by
  unfold selectBank at h
  split at h
  · cases h; assumption
  · cases policy with
    | fault => cases h
    | wrap => cases h; exact Nat.mod_lt _ (by omega)
    | ignore => cases h; exact hsel

theorem wf_type1_iff {img : Image} {sel : Nat} : (Cartridge.type1 img sel).wf = true ↔
    img.wf = true ∧ img.len = (img.nsw + 1) * bankSize ∧ sel < img.nsw := by
  simp [Cartridge.wf, and_assoc]

/-- A byte put at an address of a region leaves every listed byte inside the regions. -/
theorem all_inRegions_cellsPut {regions : List Region} {m : Memory} {a : Nat} (v : Byte)
    (hm : m.all (fun c => regions.any fun r => inWindow r c.1) = true)
    (ha : (regions.any fun r => inWindow r a) = true) :
    (cellsPut unlistedByte m a v).all (fun c => regions.any fun r => inWindow r c.1) = true := by
  refine List.all_eq_true.mpr fun c hc => ?_
  rcases mem_cellsPut hc with rfl | hc
  · exact ha
  · exact List.all_eq_true.mp hm c hc

theorem busStore_inv {s t : State} {a : Word} {v : Byte} (h : busStore s a v = .ok t) (hs : s.Inv) : t.Inv := by
  obtain ⟨hwf, hin, hcart, hwin⟩ := hs
  rcases busStore_cases h with ⟨_, ⟨r, hmem, hr, _⟩, rfl⟩ | ⟨img, sel, sel', hc, _, _, hsel, rfl⟩
  · refine ⟨cellsWf_cellsPut _ _ hwf, all_inRegions_cellsPut v hin ?_, hcart, hwin⟩
    exact List.any_eq_true.mpr ⟨r, hmem, hr⟩
  · rw [hc] at hcart hwin
    obtain ⟨himg, hlen, hlt⟩ := wf_type1_iff.mp hcart
    exact ⟨hwf, hin, wf_type1_iff.mpr ⟨himg, hlen, selectBank_lt hsel hlt⟩, hwin⟩

theorem store16_inv {s t : State} {a w : Word} (h : store16 s a w = .ok t) (hs : s.Inv) : t.Inv := by
  obtain ⟨s1, h1, h2⟩ := store16_ok h
  exact busStore_inv h2 (busStore_inv h1 hs)

/-! ## Steps -/

theorem storeEffect_inv {s t : State} (h : StoreEffect s t) (hs : s.Inv) : t.Inv := by
  obtain ⟨hp, ⟨hm, hc⟩ | ⟨a, v, u, hu, hm, hc⟩ | ⟨a, w, u, hu, hm, hc⟩⟩ := h
  · exact inv_congr hm hc hp hs
  · obtain ⟨_, _, _, _, hpu, _⟩ := busStore_frame hu
    exact inv_congr hm hc (hp.trans hpu.symm) (busStore_inv hu hs)
  · obtain ⟨_, _, _, _, hpu, _⟩ := store16_frame hu
    exact inv_congr hm hc (hp.trans hpu.symm) (store16_inv hu hs)

/-- Settles O27: a step is one store at most, and a store keeps the invariant. -/
theorem stepKeepsTheInvariant : Obligations.StepKeepsTheInvariant :=
  fun _ _ hs h => storeEffect_inv (step_effect h) hs

/-- A store leaves a Type0 cartridge alone and of a Type1 cartridge can change the bank only. -/
theorem busStore_cart {s t : State} {a : Word} {v : Byte} (h : busStore s a v = .ok t) :
    t.cart = s.cart ∨ ∃ img sel sel', s.cart = .type1 img sel ∧ t.cart = .type1 img sel' := by
  rcases busStore_cases h with ⟨_, _, rfl⟩ | ⟨img, sel, sel', hc, _, _, _, rfl⟩
  · exact .inl rfl
  · exact .inr ⟨img, sel, sel', hc, rfl⟩

theorem store16_cart {s t : State} {a w : Word} (h : store16 s a w = .ok t) :
    t.cart = s.cart ∨ ∃ img sel sel', s.cart = .type1 img sel ∧ t.cart = .type1 img sel' := by
  obtain ⟨s1, h1, h2⟩ := store16_ok h
  rcases busStore_cart h2 with h2 | ⟨img, sel, sel', hc1, hc⟩
  · rw [h2]; exact busStore_cart h1
  · rcases busStore_cart h1 with h1 | ⟨img', sel1, sel2, hc0, hc2⟩
    · exact .inr ⟨img, sel, sel', h1 ▸ hc1, hc⟩
    · cases hc2.symm.trans hc1
      exact .inr ⟨img, sel1, sel', hc0, hc⟩

theorem storeEffect_cart {s t : State} (h : StoreEffect s t) :
    t.cart = s.cart ∨ ∃ img sel sel', s.cart = .type1 img sel ∧ t.cart = .type1 img sel' := by
  obtain ⟨_, ⟨_, hc⟩ | ⟨a, v, u, hu, _, hc⟩ | ⟨a, w, u, hu, _, hc⟩⟩ := h
  · exact .inl hc
  · rw [hc]; exact busStore_cart hu
  · rw [hc]; exact store16_cart hu

/-- Settles O30: image and window follow from the two things a step can leave of the cartridge. -/
theorem stepKeepsImageAndParameters : Obligations.StepKeepsImageAndParameters := by
  intro s t h
  have heff := step_effect h
  refine ⟨heff.1, ?_⟩
  rcases storeEffect_cart heff with hc | ⟨img, sel, sel', hs, ht⟩
  · rw [hc]
    exact ⟨rfl, rfl, fun _ => rfl, fun _ sel hs => ⟨sel, hs⟩⟩
  · rw [hs, ht]
    refine ⟨rfl, rfl, (fun ⟨_, h0⟩ => nomatch h0), fun img' sel1 h1 => ?_⟩
    cases h1
    exact ⟨sel', rfl⟩

/-! ## Construction -/

/-- A Type1 image whose number of banks is whole and at least two is `NSW + 1` banks long (R63). -/
theorem len_eq_of_nsw_pos {img : Image} {n : Nat} (hlen : img.len = n * bankSize) (hn : 0 < img.nsw) :
    img.len = (img.nsw + 1) * bankSize := by
  have hdiv : img.len / bankSize = n := by rw [hlen]; exact Nat.mul_div_cancel n (by decide)
  have : img.nsw + 1 = n := by unfold Image.nsw at hn ⊢; omega
  rw [this, hlen]

/-- The factory builds a well-formed cartridge from a canonical image, where R63's bank exists. -/
theorem cartridgeFactory_wf {b : BuildParams} {img : Image} {k : Cartridge} (himg : img.wf = true)
    (h : cartridgeFactory b img = .ok k) (hk : k.hasBank = true) : k.wf = true := by
  obtain ⟨hmin, ⟨_, hmax, rfl⟩ | ⟨_, n, _, hlen, rfl⟩⟩ := cartridgeFactory_ok h
  · simp [Cartridge.wf, himg, hmin, hmax]
  · have hpos : 0 < img.nsw := of_decide_eq_true hk
    exact wf_type1_iff.mpr ⟨himg, len_eq_of_nsw_pos hlen hpos, hpos⟩

/-- Settles O29: `construct_next` names the four parts of a machine just built. -/
theorem constructionMeetsTheInvariant : Obligations.ConstructionMeetsTheInvariant := by
  intro b img s himg h
  obtain ⟨k, hk, hwin, hbank, rfl⟩ := construct_next h
  obtain ⟨hwf, hin⟩ := initialMemory_wf b.par.regions b.ramInit
  exact ⟨hwf, hin, cartridgeFactory_wf himg hk hbank, hwin⟩

/-- Settles O28: the blank image is a canonical Type0 image and the default region lies above it. -/
theorem resetMeetsTheInvariant : Obligations.ResetMeetsTheInvariant := by
  unfold Obligations.ResetMeetsTheInvariant
  decide

end Sys2Proof.Claims
end

section
/-! The encoding family (spec/30_encoding.md). An opcode byte is its three fields `x`, `y`, `z` (R102), so a row of the
table is read off the fields, and the bytes of a row are its opcode followed by its operand bytes (R103). -/

namespace Sys2Proof.Claims

open Sys2Proof Sys2Proof.Machine

/-! ## The fields of an opcode byte (R102) -/

/-- The opcode byte with the given fields. -/
def opcode (x : Fin 4) (y z : Fin 8) : Byte := BitVec.ofNat 8 (64 * x + 8 * y + z)

theorem opcode_toNat (x : Fin 4) (y z : Fin 8) : (opcode x y z).toNat = 64 * x + 8 * y + z := by
  rw [opcode, BitVec.toNat_ofNat]
  omega

@[simp] theorem field2_opcode (x : Fin 4) (y z : Fin 8) : field2 (opcode x y z) 6 = x := by
  ext; simp only [field2, opcode_toNat]; omega

@[simp] theorem field3_opcode_y (x : Fin 4) (y z : Fin 8) : field3 (opcode x y z) 3 = y := by
  ext; simp only [field3, opcode_toNat]; omega

@[simp] theorem field3_opcode_z (x : Fin 4) (y z : Fin 8) : field3 (opcode x y z) 0 = z := by
  ext; simp only [field3, opcode_toNat]; omega

/-- Every byte is the opcode of its fields. -/
theorem exists_opcode (op : Byte) : ∃ x y z, opcode x y z = op := by
  refine ⟨field2 op 6, field3 op 3, field3 op 0, BitVec.eq_of_toNat_eq ?_⟩
  have := op.isLt
  simp only [opcode_toNat, field2, field3]
  omega

theorem opByte_eq_opcode {base weight field : Nat} {x : Fin 4} {y z : Fin 8}
    (h : base + weight * field = 64 * x + 8 * y + z) : opByte base weight field = opcode x y z :=
  congrArg (BitVec.ofNat 8) h

/-! ## The field map `r8` (R104) -/

@[simp] theorem code_sel8Of (z : Fin 8) : (sel8Of z).code = z := by
  fin_cases z <;> rfl

theorem exists_sel8Of (t : Sel8) : ∃ z, sel8Of z = t :=
  ⟨Fin.ofNat 8 t.code, by rcases t with (_ | _ | _ | _ | _ | _ | _) | _ <;> rfl⟩

/-! ## The operand bytes of a row (R103) -/

/-- The operand bytes of a row of length `n`: none, one, or the two halves of a word, the low one first. -/
def operandBytes (n : Nat) (o1 o2 : Byte) : List Byte :=
  match n with
  | 2 => [o1]
  | 3 => [lo8 (mk16 o2 o1), hi8 (mk16 o2 o1)]
  | _ => []

theorem one_le_length_le_three (i : Instr) : 1 ≤ i.length ∧ i.length ≤ 3 := by
  unfold Instr.length
  split <;> decide

theorem length_operandBytes {n : Nat} (h1 : 1 ≤ n) (h3 : n ≤ 3) (o1 o2 : Byte) :
    (operandBytes n o1 o2).length + 1 = n := by
  interval_cases n <;> rfl

theorem operandBytes_three (o1 o2 : Byte) : operandBytes 3 o1 o2 = [o1, o2] := by
  simp [operandBytes]

/-- Only the immediates of a row depend on the operand bytes: its length and its place in the table do not. -/
theorem primaryRow_static (p : Params) (op o1 o2 : Byte) :
    (primaryRow op o1 o2).length = (primaryRow op 0#8 0#8).length ∧
    (primaryRow op o1 o2).decodes p = (primaryRow op 0#8 0#8).decodes p := by
  obtain ⟨x, y, z, rfl⟩ := exists_opcode op
  unfold primaryRow
  rw [field2_opcode]
  match x with
  | 0 => unfold rowX0; dsimp only; fin_cases z <;> fin_cases y <;> exact ⟨rfl, rfl⟩
  | 1 => exact ⟨rfl, rfl⟩
  | 2 => exact ⟨rfl, rfl⟩
  | 3 => unfold rowX3; dsimp only; fin_cases z <;> fin_cases y <;> exact ⟨rfl, rfl⟩

theorem primaryRow_length (op o1 o2 : Byte) : (primaryRow op o1 o2).length = (primaryRow op 0#8 0#8).length :=
  (primaryRow_static Params.default op o1 o2).1

/-! ## The bytes of a row -/

theorem encode_loadRow (y z : Fin 8) : encode (loadRow (sel8Of y) (sel8Of z)) = [opcode 1 y z] := by
  fin_cases y <;> fin_cases z <;> rfl

theorem encode_aluRow (y z : Fin 8) : encode (aluRow y (sel8Of z)) = [opcode 2 y z] := by
  fin_cases y <;> fin_cases z <;> rfl

theorem encode_rowX0 (y z : Fin 8) (o1 o2 : Byte) : encode (rowX0 (opcode 0 y z) o1 o2) =
    opcode 0 y z :: operandBytes (rowX0 (opcode 0 y z) o1 o2).length o1 o2 := by
  fin_cases z <;> fin_cases y <;> rfl

theorem encode_rowX3 (y z : Fin 8) (o1 o2 : Byte) : encode (rowX3 (opcode 3 y z) o1 o2) =
    opcode 3 y z :: operandBytes (rowX3 (opcode 3 y z) o1 o2).length o1 o2 := by
  fin_cases z <;> fin_cases y <;> rfl

theorem length_loadRow (t u : Sel8) : (loadRow t u).length = 1 := by
  cases t <;> cases u <;> rfl

theorem length_aluRow (y : Fin 8) (t : Sel8) : (aluRow y t).length = 1 := by
  fin_cases y <;> cases t <;> rfl

/-- The bytes of a row are its opcode and then its operand bytes. -/
theorem encode_primaryRow (op o1 o2 : Byte) :
    encode (primaryRow op o1 o2) = op :: operandBytes (primaryRow op o1 o2).length o1 o2 := by
  obtain ⟨x, y, z, rfl⟩ := exists_opcode op
  unfold primaryRow
  rw [field2_opcode]
  match x with
  | 0 => exact encode_rowX0 y z o1 o2
  | 1 => simp [encode_loadRow, length_loadRow, operandBytes]
  | 2 => simp [encode_aluRow, length_aluRow, operandBytes]
  | 3 => exact encode_rowX3 y z o1 o2

/-- Only 0xCB stands for the bare `prefixCB` row (R113). -/
theorem primaryRow_wellFormed {op : Byte} (o1 o2 : Byte) (h : op ≠ 0xCB#8) : (primaryRow op o1 o2).WellFormed := by
  intro hp
  have henc := encode_primaryRow op o1 o2
  rw [hp] at henc
  exact h (List.cons.inj henc).1.symm

/-! ## The extended table (R111) -/

theorem encode_rotateRow (y z : Fin 8) : encode (rotateRow y (sel8Of z)) = [0xCB#8, opcode 0 y z] := by
  fin_cases y <;> exact congrArg (fun b => [0xCB#8, b]) (opByte_eq_opcode (by simp))

theorem length_rotateRow (y : Fin 8) (t : Sel8) : (rotateRow y t).length = 2 := by
  fin_cases y <;> rfl

theorem tier_rotateRow (y : Fin 8) (t : Sel8) : (rotateRow y t).tier = .S := by
  fin_cases y <;> rfl

/-- The second byte of BIT, RES and SET: the bit number is `y`. -/
theorem bitByte_eq_opcode (x : Fin 4) (y z : Fin 8) : opByte (64 * x + (sel8Of z).code) 8 y = opcode x y z :=
  opByte_eq_opcode (by rw [code_sel8Of]; omega)

theorem encode_decodeExtended (b1 : Byte) : encode (decodeExtended b1) = [0xCB#8, b1] := by
  obtain ⟨x, y, z, rfl⟩ := exists_opcode b1
  unfold decodeExtended
  rw [field2_opcode, field3_opcode_y, field3_opcode_z]
  match x with
  | 0 => exact encode_rotateRow y z
  | 1 => exact congrArg (fun b => [0xCB#8, b]) (bitByte_eq_opcode 1 y z)
  | 2 => exact congrArg (fun b => [0xCB#8, b]) (bitByte_eq_opcode 2 y z)
  | 3 => exact congrArg (fun b => [0xCB#8, b]) (bitByte_eq_opcode 3 y z)

theorem length_decodeExtended (b1 : Byte) : (decodeExtended b1).length = 2 := by
  unfold decodeExtended
  split
  · exact length_rotateRow _ _
  all_goals rfl

theorem tier_decodeExtended (b1 : Byte) : (decodeExtended b1).tier = .S := by
  unfold decodeExtended
  split
  · exact tier_rotateRow _ _
  all_goals rfl

theorem decodeExtended_wellFormed (b1 : Byte) : (decodeExtended b1).WellFormed := by
  intro hp
  have htier := tier_decodeExtended b1
  rw [hp] at htier
  cases htier

/-! ## Reading bytes -/

/-- What the operand reader can give: a row of the opcode, and the bytes after its operand bytes. -/
theorem readOperands_ok {op : Byte} {bytes rest : List Byte} {i : Instr} (h : readOperands op bytes = .ok (i, rest)) :
    ∃ o1 o2, i = primaryRow op o1 o2 ∧ bytes = operandBytes i.length o1 o2 ++ rest := by
  unfold readOperands at h
  split at h
  next hlen => cases h; exact ⟨0#8, 0#8, rfl, by rw [hlen]; rfl⟩
  next o1 r hlen => cases h; exact ⟨o1, 0#8, rfl, by rw [primaryRow_length, hlen]; rfl⟩
  next o1 o2 r hlen => cases h; exact ⟨o1, o2, rfl, by rw [primaryRow_length, hlen, operandBytes_three]; rfl⟩
  next => cases h

theorem readOperands_one {op : Byte} (h : (primaryRow op 0#8 0#8).length = 1) (rest : List Byte) :
    readOperands op rest = .ok (primaryRow op 0#8 0#8, rest) := by
  simp [readOperands, h]

theorem readOperands_two {op : Byte} (h : (primaryRow op 0#8 0#8).length = 2) (o1 : Byte) (rest : List Byte) :
    readOperands op (o1 :: rest) = .ok (primaryRow op o1 0#8, rest) := by
  simp [readOperands, h]

theorem readOperands_three {op : Byte} (h : (primaryRow op 0#8 0#8).length = 3) (o1 o2 : Byte) (rest : List Byte) :
    readOperands op (o1 :: o2 :: rest) = .ok (primaryRow op o1 o2, rest) := by
  simp [readOperands, h]

theorem decodeRow_prefix (b1 : Byte) (rest : List Byte) :
    decodeRow (0xCB#8 :: b1 :: rest) = .ok (decodeExtended b1, rest) := rfl

theorem decodeRow_primary {op : Byte} (h : op ≠ 0xCB#8) (rest : List Byte) :
    decodeRow (op :: rest) = readOperands op rest := if_neg h

/-- Everything the row decoder can give: an extended instruction, or a row of the primary table. -/
theorem decodeRow_ok {bytes rest : List Byte} {i : Instr} (h : decodeRow bytes = .ok (i, rest)) :
    (∃ b1, i = decodeExtended b1 ∧ bytes = 0xCB#8 :: b1 :: rest) ∨
    ∃ op o1 o2, op ≠ 0xCB#8 ∧ i = primaryRow op o1 o2 ∧ bytes = op :: operandBytes i.length o1 o2 ++ rest := by
  match bytes with
  | [] => cases h
  | op :: tail =>
    by_cases hop : op = 0xCB#8
    · subst hop
      match tail with
      | [] => cases h
      | b1 :: r => cases h; exact .inl ⟨b1, rfl, rfl⟩
    · rw [decodeRow_primary hop] at h
      obtain ⟨o1, o2, hi, rfl⟩ := readOperands_ok h
      exact .inr ⟨op, o1, o2, hop, hi, rfl⟩

/-- Settles O16: an extended instruction and a primary row each give back the bytes they were read from. -/
theorem encodeOfDecodeIsTheBytes : Obligations.EncodeOfDecodeIsTheBytes := by
  intro bytes rest i h
  rcases decodeRow_ok h with ⟨b1, rfl, rfl⟩ | ⟨op, o1, o2, hop, rfl, rfl⟩
  · exact ⟨decodeExtended_wellFormed b1, by rw [encode_decodeExtended]; rfl,
      by rw [encode_decodeExtended, length_decodeExtended]; rfl⟩
  · obtain ⟨h1, h3⟩ := one_le_length_le_three (primaryRow op o1 o2)
    exact ⟨primaryRow_wellFormed o1 o2 hop, by rw [encode_primaryRow],
      by rw [encode_primaryRow, List.length_cons, length_operandBytes h1 h3]⟩

/-! ## The bytes of an instruction are read as that instruction -/

/-- A whole primary row stands at another byte than 0xCB. -/
theorem ne_prefix_of_primaryRow {op o1 o2 : Byte} {i : Instr} (hrow : primaryRow op o1 o2 = i) (hi : i.WellFormed) :
    op ≠ 0xCB#8 := by
  rintro rfl
  exact hi hrow.symm

theorem decodeRow_one {op : Byte} {i : Instr} (rest : List Byte) (hi : i.WellFormed)
    (hrow : primaryRow op 0#8 0#8 = i) (hlen : i.length = 1) : decodeRow ([op] ++ rest) = .ok (i, rest) := by
  rw [← hrow] at hlen
  rw [List.singleton_append, decodeRow_primary (ne_prefix_of_primaryRow hrow hi), readOperands_one hlen, hrow]

theorem decodeRow_two {op o1 : Byte} {i : Instr} (rest : List Byte) (hi : i.WellFormed)
    (hrow : primaryRow op o1 0#8 = i) (hlen : i.length = 2) : decodeRow ([op, o1] ++ rest) = .ok (i, rest) := by
  rw [← hrow, primaryRow_length] at hlen
  rw [List.cons_append, List.singleton_append, decodeRow_primary (ne_prefix_of_primaryRow hrow hi),
    readOperands_two hlen, hrow]

theorem decodeRow_word {op : Byte} {f : Word → Instr} (w : Word) (rest : List Byte) (hi : (f w).WellFormed)
    (hrow : ∀ o1 o2, primaryRow op o1 o2 = f (mk16 o2 o1)) (hlen : (f w).length = 3) :
    decodeRow (withWord op w ++ rest) = .ok (f w, rest) := by
  have hw : primaryRow op (lo8 w) (hi8 w) = f w := by rw [hrow, mk16_hi8_lo8]
  rw [← hw, primaryRow_length] at hlen
  rw [withWord, List.cons_append, List.cons_append, List.singleton_append,
    decodeRow_primary (ne_prefix_of_primaryRow hw hi), readOperands_three hlen, hw]

theorem decodeRow_rotate (y z : Fin 8) (rest : List Byte) :
    decodeRow (encode (rotateRow y (sel8Of z)) ++ rest) = .ok (rotateRow y (sel8Of z), rest) := by
  rw [encode_rotateRow]
  simp [decodeRow_prefix, decodeExtended]

theorem decodeRow_bit (x : Fin 4) (y z : Fin 8) (rest : List Byte) :
    decodeRow ([0xCB#8, opByte (64 * x + (sel8Of z).code) 8 y] ++ rest) =
      .ok (decodeExtended (opcode x y z), rest) := by
  rw [bitByte_eq_opcode]
  rfl

/-- Settles O15: by the shape of the encoding, each opcode byte read off its row. -/
theorem decodeOfEncodeIsTheInstruction : Obligations.DecodeOfEncodeIsTheInstruction := by
  intro i rest hi
  cases i
  case prefixCB => exact absurd rfl hi
  case rlcT t => obtain ⟨z, rfl⟩ := exists_sel8Of t; exact decodeRow_rotate 0 z rest
  case rrcT t => obtain ⟨z, rfl⟩ := exists_sel8Of t; exact decodeRow_rotate 1 z rest
  case rlT t => obtain ⟨z, rfl⟩ := exists_sel8Of t; exact decodeRow_rotate 2 z rest
  case rrT t => obtain ⟨z, rfl⟩ := exists_sel8Of t; exact decodeRow_rotate 3 z rest
  case slaT t => obtain ⟨z, rfl⟩ := exists_sel8Of t; exact decodeRow_rotate 4 z rest
  case sraT t => obtain ⟨z, rfl⟩ := exists_sel8Of t; exact decodeRow_rotate 5 z rest
  case swapT t => obtain ⟨z, rfl⟩ := exists_sel8Of t; exact decodeRow_rotate 6 z rest
  case srlT t => obtain ⟨z, rfl⟩ := exists_sel8Of t; exact decodeRow_rotate 7 z rest
  case bitBT b t =>
    obtain ⟨z, rfl⟩ := exists_sel8Of t
    exact (decodeRow_bit 1 b z rest).trans (by simp [decodeExtended])
  case resBT b t =>
    obtain ⟨z, rfl⟩ := exists_sel8Of t
    exact (decodeRow_bit 2 b z rest).trans (by simp [decodeExtended])
  case setBT b t =>
    obtain ⟨z, rfl⟩ := exists_sel8Of t
    exact (decodeRow_bit 3 b z rest).trans (by simp [decodeExtended])
  case ldA16SP w | ldA16A w | ldAA16 w | jpA16 w | callA16 w => exact decodeRow_word w rest hi (fun _ _ => rfl) rfl
  case ldRrD16 rr w => exact decodeRow_word w rest hi (by cases rr <;> exact fun _ _ => rfl) rfl
  case jpCcA16 cc w | callCcA16 cc w => exact decodeRow_word w rest hi (by cases cc <;> exact fun _ _ => rfl) rfl
  case jrCcE8 cc e8 => exact decodeRow_two rest hi (by cases cc <;> rfl) rfl
  case ldRD8 r d8 => exact decodeRow_two rest hi (by cases r <;> rfl) rfl
  case stop | jrE8 | ldHLD8 | addAD8 | adcAD8 | subD8 | sbcAD8 | andD8 | xorD8 | orD8 | cpD8 | ldhA8A | ldhAA8
      | addSPE8 | ldHLSPE8 =>
    exact decodeRow_two rest hi rfl rfl
  case ldRR r r' => exact decodeRow_one rest hi (by cases r <;> cases r' <;> rfl) rfl
  case addHLRr rr | incRr rr | decRr rr => exact decodeRow_one rest hi (by cases rr <;> rfl) rfl
  case popRr rr | pushRr rr => exact decodeRow_one rest hi (by cases rr <;> rfl) rfl
  case retCc cc => exact decodeRow_one rest hi (by cases cc <;> rfl) rfl
  case rstN y => exact decodeRow_one rest hi (by fin_cases y <;> rfl) rfl
  case incR r | decR r | ldRHL r | ldHLR r | addAR r | adcAR r | subR r | sbcAR r | andR r | xorR r | orR r | cpR r =>
    exact decodeRow_one rest hi (by cases r <;> rfl) rfl
  all_goals exact decodeRow_one rest hi rfl rfl

/-! ## The tables -/

theorem decodes_of_tier_S {p : Params} {i : Instr} (h : i.tier = .S) : i.decodes p = true := by
  unfold Instr.decodes
  rw [h]

theorem decodes_of_tier_noInstr {p : Params} {i : Instr} (h : i.tier = .noInstr) : i.decodes p = false := by
  unfold Instr.decodes
  rw [h]

/-- Settles O17: an extended row is of tier S, two bytes long and encoded as 0xCB and its byte. -/
theorem extendedTableIsTotal : Obligations.ExtendedTableIsTotal :=
  fun _ b1 _ => ⟨rfl, decodes_of_tier_S (tier_decodeExtended b1), length_decodeExtended b1, encode_decodeExtended b1⟩

/-- A tier X row is in the table under `reference_full`, HALT and STOP under `stuck` besides (R110, R277, R278). -/
theorem decodes_of_tier_X {p : Params} {i : Instr} (h : i.tier = .X) : i.decodes p = true ↔
    p.extent = .referenceFull ∧ ((i = .halt ∨ ∃ pad, i = .stop pad) → p.haltStop = .stuck) := by
  simp only [Instr.decodes, h, Bool.and_eq_true, decide_eq_true_eq]
  refine and_congr_right fun _ => ?_
  split
  · simp
  · simp
  next hhalt hstop => exact iff_of_true rfl fun h => (h.elim hhalt fun ⟨pad, h⟩ => hstop pad h).elim

theorem opcode_of_tier_X {i : Instr} {op : Byte} {l : List Byte} (h : i.tier = .X) (he : encode i = op :: l) :
    op ∈ tierXOpcodes := by
  cases i <;> cases h <;> cases he
  case addHLRr rr => cases rr <;> decide
  all_goals decide

theorem opcode_of_tier_noInstr {i : Instr} {op : Byte} {l : List Byte} (h : i.tier = .noInstr)
    (he : encode i = op :: l) (hop : op ≠ 0xCB#8) : (op, i) ∈ undefinedRows := by
  cases i <;> cases h <;> cases he
  case prefixCB => exact absurd rfl hop
  all_goals decide

theorem primaryRow_of_undefined (o1 o2 : Byte) : ∀ q ∈ undefinedRows, primaryRow q.1 o1 o2 = q.2 := by
  intro q hq
  fin_cases hq <;> rfl

theorem tier_of_undefined : ∀ q ∈ undefinedRows, q.2.tier = .noInstr := by decide

theorem tier_of_tierXOpcode : ∀ b0 ∈ tierXOpcodes, (primaryRow b0 0#8 0#8).tier = .X := by decide

/-- HALT and STOP stand at 0x76 and 0x10 alone. -/
theorem halt_or_stop_iff (b0 : Byte) :
    (primaryRow b0 0#8 0#8 = .halt ∨ ∃ pad, primaryRow b0 0#8 0#8 = .stop pad) ↔ b0 = 0x76#8 ∨ b0 = 0x10#8 := by
  have henc := encode_primaryRow b0 0#8 0#8
  constructor
  · rintro (h | ⟨pad, h⟩) <;> rw [h] at henc
    · exact .inl (List.cons.inj henc).1.symm
    · exact .inr (List.cons.inj henc).1.symm
  · rintro (rfl | rfl)
    · exact .inl rfl
    · exact .inr ⟨0#8, rfl⟩

/-- The rows that are not in the table under the parameters stand at the bytes the rules list. -/
theorem not_decodes_iff_misses {p : Params} {b0 : Byte} (hb : b0 ≠ 0xCB#8) :
    (primaryRow b0 0#8 0#8).decodes p = false ↔ Misses p b0 := by
  have henc := encode_primaryRow b0 0#8 0#8
  have hundef {i : Instr} (h : (b0, i) ∈ undefinedRows) : (primaryRow b0 0#8 0#8).tier = .noInstr := by
    rw [primaryRow_of_undefined _ _ _ h]; exact tier_of_undefined _ h
  have hhs : b0 = 0x76#8 ∨ b0 = 0x10#8 → b0 ∈ tierXOpcodes := by rintro (rfl | rfl) <;> decide
  cases htier : (primaryRow b0 0#8 0#8).tier with
  | noInstr => exact iff_of_true (decodes_of_tier_noInstr htier) (.inl ⟨_, opcode_of_tier_noInstr htier henc hb⟩)
  | S =>
    have hX : b0 ∉ tierXOpcodes := fun h => by cases htier.symm.trans (tier_of_tierXOpcode b0 h)
    refine iff_of_false (by simp [decodes_of_tier_S htier]) ?_
    rintro (⟨i, h⟩ | ⟨_, h⟩ | ⟨_, h⟩)
    · cases htier.symm.trans (hundef h)
    · exact hX (hhs h)
    · exact hX h
  | X =>
    have hno : ¬∃ i, (b0, i) ∈ undefinedRows := fun ⟨_, h⟩ => by cases htier.symm.trans (hundef h)
    rw [← Bool.not_eq_true, decodes_of_tier_X htier, halt_or_stop_iff, Misses]
    simp only [hno, opcode_of_tier_X htier henc, false_or, and_true]
    cases p.extent <;> cases p.haltStop <;> simp [or_iff_not_imp_left]

/-- Settles O19: the operand bytes play no part, and the misses are those of the row with operand bytes zero. -/
theorem primaryTableMissesExactlyTheListedBytes : Obligations.PrimaryTableMissesExactlyTheListedBytes := by
  intro p b0 o1 o2 hb
  rw [← not_decodes_iff_misses hb, ← (primaryRow_static p b0 o1 o2).2, decodePrimary]
  split <;> simp_all

/-- Settles O18: the length is that of the row with the operand bytes zero. -/
theorem firstByteFixesTheLength : Obligations.FirstByteFixesTheLength := by
  intro b0 o1 o2 o1' o2' _ _
  exact ⟨(primaryRow_length b0 o1 o2).trans (primaryRow_length b0 o1' o2').symm,
    one_le_length_le_three (primaryRow b0 o1 o2)⟩

/-- Settles O20: each string decodes by evaluation. -/
theorem sampleWordsDecodeAsTheRulesSay : Obligations.SampleWordsDecodeAsTheRulesSay :=
  ⟨rfl, rfl, rfl, rfl, rfl, rfl, rfl, rfl, rfl, rfl, rfl, rfl, rfl⟩

end Sys2Proof.Claims
end

section
/-! The step family (spec/30_encoding.md R100, spec/60_exceptions.md R300 to R317, spec/70_reset_and_hazards.md R346):
what fetch gives, in the order it accesses the bytes, the errors a step can end with, and the step port. -/

namespace Sys2Proof.Claims

open Sys2Proof Sys2Proof.Machine

/-! ## Fetch and decode (R100, R307) -/

theorem step_of_fetch {s : State} {i : Instr} (h : fetchInstr s = .ok i) : step s = exec i s := by
  simp [step, h]

theorem step_of_fetch_error {s : State} {e : Fault} (h : fetchInstr s = .error e) : step s = .fault e := by
  simp [step, h, raise]

theorem step_eq_next {s t : State} : step s = .next t ↔ ∃ i, fetchInstr s = .ok i ∧ exec i s = .next t := by
  cases h : fetchInstr s with
  | error e => simp [step_of_fetch_error h]
  | ok i => simp [step_of_fetch h]

theorem fetchInstr_of_load_error {s : State} {e : Fault} (h : busLoad s s.pc = .error e) :
    fetchInstr s = .error e := by
  simp [fetchInstr, h]

theorem fetchInstr_of_prefix {s : State} (h : busLoad s s.pc = .ok 0xCB#8) :
    fetchInstr s = (busLoad s (s.pc + 1#16)).map decodeExtended := by
  simp only [fetchInstr, h]
  cases busLoad s (s.pc + 1#16) <;> rfl

section
variable {s : State} {b0 : Byte} (h0 : busLoad s s.pc = .ok b0) (hb : b0 ≠ 0xCB#8)
include h0 hb

theorem fetchInstr_of_miss (hmiss : Misses s.par b0) : fetchInstr s = .error (.unknownOpcode b0) := by
  simp [fetchInstr, h0, hb, (not_decodes_iff_misses hb).mpr hmiss]

theorem fetchInstr_of_hit (hhit : ¬Misses s.par b0) : fetchInstr s = fetchOperands s b0 := by
  simp [fetchInstr, h0, hb, Bool.eq_true_of_not_eq_false (mt (not_decodes_iff_misses hb).mp hhit)]

end

theorem fetchOperands_one {s : State} {b0 : Byte} (h : (primaryRow b0 0#8 0#8).length = 1) :
    fetchOperands s b0 = .ok (primaryRow b0 0#8 0#8) := by
  simp [fetchOperands, h]

theorem fetchOperands_two {s : State} {b0 : Byte} (h : (primaryRow b0 0#8 0#8).length = 2) :
    fetchOperands s b0 = (busLoad s (s.pc + 1#16)).map fun o1 => primaryRow b0 o1 0#8 := by
  simp only [fetchOperands, h]
  cases busLoad s (s.pc + 1#16) <;> rfl

theorem fetchOperands_three {s : State} {b0 : Byte} (h : (primaryRow b0 0#8 0#8).length = 3) :
    fetchOperands s b0 = (busLoad s (s.pc + 1#16)).bind fun o1 =>
      (busLoad s (s.pc + 2#16)).map fun o2 => primaryRow b0 o1 o2 := by
  simp only [fetchOperands, h]
  cases busLoad s (s.pc + 1#16) <;> cases busLoad s (s.pc + 2#16) <;> rfl

/-- The three lengths of a row. -/
theorem length_cases (i : Instr) : i.length = 1 ∨ i.length = 2 ∨ i.length = 3 := by
  have := one_le_length_le_three i
  omega

/-- Settles O22: each clause by what fetch does at that point. -/
theorem firstErrorOfFetchIsReported : Obligations.FirstErrorOfFetchIsReported := by
  intro s
  refine ⟨fun e h => step_of_fetch_error (fetchInstr_of_load_error h),
    fun b0 h0 hb hmiss => step_of_fetch_error (fetchInstr_of_miss h0 hb hmiss),
    fun e h0 h1 => step_of_fetch_error (by rw [fetchInstr_of_prefix h0, h1]; rfl),
    fun b0 e h0 hb hhit hlen h1 => step_of_fetch_error ?_,
    fun b0 o1 e h0 hb hhit hlen h1 h2 => step_of_fetch_error ?_⟩ <;> rw [fetchInstr_of_hit h0 hb hhit]
  · rcases length_cases (primaryRow b0 0#8 0#8) with h | h | h
    · omega
    · rw [fetchOperands_two h, h1]; rfl
    · rw [fetchOperands_three h, h1]; rfl
  · rw [fetchOperands_three hlen, h1, h2]; rfl

/-! ## The bytes at `pc` are the instruction run -/

/-- The decoder with its misses gives what the row decoder gives, where the first byte does not miss. -/
theorem decode_ok {p : Params} {b0 : Byte} {tail rest : List Byte} {i : Instr}
    (h : decode p (b0 :: tail) = .ok (i, rest)) :
    decodeRow (b0 :: tail) = .ok (i, rest) ∧ (b0 ≠ 0xCB#8 → ¬Misses p b0) := by
  by_cases hb : b0 ≠ 0xCB#8 ∧ (primaryRow b0 0#8 0#8).decodes p = false
  · rw [decode, if_pos hb] at h
    cases h
  · rw [decode, if_neg hb] at h
    exact ⟨h, fun hne hmiss => hb ⟨hne, (not_decodes_iff_misses hne).mpr hmiss⟩⟩

/-- Where the operand bytes stand after the opcode, fetch reads what the decoder reads. -/
theorem fetchOperands_of_bytesAt {s : State} {b0 : Byte} {tail : List Byte} {i : Instr}
    (hbytes : BytesAt s (s.pc + 1#16) tail) (h : readOperands b0 tail = .ok (i, [])) :
    fetchOperands s b0 = .ok i := by
  have hpc : s.pc + 1#16 + 1#16 = s.pc + 2#16 := BitVec.add_assoc ..
  unfold readOperands at h
  split at h
  next hlen => cases h; exact fetchOperands_one hlen
  next o1 r hlen =>
    cases h
    obtain ⟨h1, _⟩ := hbytes
    rw [fetchOperands_two hlen, h1]
    rfl
  next o1 o2 r hlen =>
    cases h
    obtain ⟨h1, h2, _⟩ := hbytes
    rw [hpc] at h2
    rw [fetchOperands_three hlen, h1, h2]
    rfl
  next => cases h

theorem fetchInstr_of_bytesAt {s : State} {bytes : List Byte} {i : Instr} (hbytes : BytesAt s s.pc bytes)
    (h : decode s.par bytes = .ok (i, [])) : fetchInstr s = .ok i := by
  match bytes with
  | [] => cases h
  | b0 :: tail =>
    obtain ⟨hrow, hhit⟩ := decode_ok h
    obtain ⟨h0, htail⟩ := hbytes
    by_cases hb : b0 = 0xCB#8
    · subst hb
      match tail with
      | [] => cases hrow
      | b1 :: r =>
        cases hrow
        rw [fetchInstr_of_prefix h0, htail.1]
        rfl
    · rw [decodeRow_primary hb] at hrow
      rw [fetchInstr_of_hit h0 hb (hhit hb)]
      exact fetchOperands_of_bytesAt htail hrow

/-- Settles O21: the bytes that stand at `pc` are those that are fetched (`fetchInstr_of_bytesAt`). -/
theorem stepRunsTheDecodedInstruction : Obligations.StepRunsTheDecodedInstruction :=
  fun _ _ _ hbytes h => step_of_fetch (fetchInstr_of_bytesAt hbytes h)

/-! ## Bytes that miss, HALT and STOP (R277, R278, R280) -/

theorem prefix_not_undefined (i : Instr) : (0xCB#8, i) ∉ undefinedRows := by
  simp [undefinedRows]

theorem ne_prefix_of_undefined {b0 : Byte} {i : Instr} (h : (b0, i) ∈ undefinedRows) : b0 ≠ 0xCB#8 := by
  rintro rfl
  exact prefix_not_undefined i h

theorem exec_of_undefined (s : State) : ∀ q ∈ undefinedRows, exec q.2 s = .fault (.unknownOpcode q.1) := by
  intro q hq
  fin_cases hq <;> rfl

/-- Settles O52: the byte misses the table, so fetch ends the step with the error its row gives. -/
theorem undefinedBytesRaiseUnknownOpcode : Obligations.UndefinedBytesRaiseUnknownOpcode := by
  intro s b0 i h
  have hb := ne_prefix_of_undefined h
  have hmiss : Misses s.par b0 := .inl ⟨i, h⟩
  exact ⟨exec_of_undefined s _ h, fun h0 => step_of_fetch_error (fetchInstr_of_miss h0 hb hmiss),
    fun o1 o2 => ⟨primaryRow_of_undefined o1 o2 _ h,
      (primaryTableMissesExactlyTheListedBytes s.par b0 o1 o2 hb).1.mpr hmiss⟩⟩

/-- HALT and STOP are in the table exactly under `reference_full` and `stuck`. -/
theorem not_misses_of_stuck {p : Params} {b0 : Byte} (hb : b0 = 0x76#8 ∨ b0 = 0x10#8) (hext : p.extent = .referenceFull)
    (hstuck : p.haltStop = .stuck) : ¬Misses p b0 := by
  have hno (i : Instr) : (b0, i) ∉ undefinedRows := by
    rcases hb with rfl | rfl <;> simp [undefinedRows]
  simp [Misses, hext, hstuck, hno]

theorem haltOrMiss_stuck {op : Byte} {s : State} (h : s.par.haltStop = .stuck) : haltOrMiss op s = .next s := by
  simp [haltOrMiss, h]

theorem haltOrMiss_unknownOpcode {op : Byte} {s : State} (h : s.par.haltStop = .unknownOpcode) :
    haltOrMiss op s = .fault (.unknownOpcode op) := by
  simp [haltOrMiss, h, raise]

/-- Settles O51: the two modes of the rows, then what fetch makes of their bytes. -/
theorem haltAndStopByMode : Obligations.HaltAndStopByMode := by
  intro s pad
  refine ⟨fun h => ⟨haltOrMiss_stuck h, haltOrMiss_stuck h⟩,
    fun h => ⟨haltOrMiss_unknownOpcode h, haltOrMiss_unknownOpcode h⟩, fun hext h0 => ⟨fun h => ?_, fun h => ?_⟩,
    fun hext h0 => ⟨fun h h1 => ?_, fun h => ?_⟩⟩
  · have hfetch : fetchInstr s = .ok .halt := by
      rw [fetchInstr_of_hit h0 (by decide) (not_misses_of_stuck (.inl rfl) hext h), fetchOperands_one rfl]
      rfl
    exact (step_of_fetch hfetch).trans (haltOrMiss_stuck h)
  · exact step_of_fetch_error (fetchInstr_of_miss h0 (by decide) (.inr (.inl ⟨h, .inl rfl⟩)))
  · have hfetch : fetchInstr s = .ok (.stop pad) := by
      rw [fetchInstr_of_hit h0 (by decide) (not_misses_of_stuck (.inr rfl) hext h), fetchOperands_two rfl, h1]
      rfl
    exact (step_of_fetch hfetch).trans (haltOrMiss_stuck h)
  · exact step_of_fetch_error (fetchInstr_of_miss h0 (by decide) (.inr (.inl ⟨h, .inr rfl⟩)))

/-! ## The bare 0xCB row (R279) -/

/-- The bare 0xCB row selects the meaning that the extended table's instruction has. -/
theorem runExtended_eq_exec (b1 : Byte) (s : State) : runExtended b1 s = exec (decodeExtended b1) s := by
  obtain ⟨x, y, z, rfl⟩ := exists_opcode b1
  simp only [runExtended, decodeExtended, field2_opcode, field3_opcode_y, field3_opcode_z]
  match x with
  | 0 => fin_cases y <;> rfl
  | 1 => rfl
  | 2 => rfl
  | 3 => rfl

theorem exec_prefixCB {s : State} {b1 : Byte} (h : busLoad s (s.pc + 1#16) = .ok b1) :
    exec .prefixCB s = exec (decodeExtended b1) s := by
  rw [← runExtended_eq_exec]
  simp [exec, execPrefixCB, h]

theorem exists_reg_of_ne_hlInd {z : Fin 8} (h : z.val ≠ 6) : ∃ r, sel8Of z = .reg r := by
  match z with
  | 0 | 1 | 2 | 3 | 4 | 5 | 7 => exact ⟨_, rfl⟩
  | 6 => exact absurd rfl h

/-- An extended instruction on a register accesses nothing that can fail. -/
theorem exec_decodeExtended_reg {b1 : Byte} (h : b1.toNat % 8 ≠ 6) (s : State) :
    ∃ t, exec (decodeExtended b1) s = .next t := by
  obtain ⟨x, y, z, rfl⟩ := exists_opcode b1
  obtain ⟨r, hr⟩ := exists_reg_of_ne_hlInd (z := z) (by rw [opcode_toNat] at h; omega)
  simp only [decodeExtended, field2_opcode, field3_opcode_y, field3_opcode_z, hr]
  match x with
  | 0 => fin_cases y <;> exact ⟨_, rfl⟩
  | 1 => exact ⟨_, rfl⟩
  | 2 => exact ⟨_, rfl⟩
  | 3 => exact ⟨_, rfl⟩

/-- Settles O53: `exec_prefixCB` for the row, `fetchInstr_of_prefix` for the step. -/
theorem prefixRunsTheExtendedInstruction : Obligations.PrefixRunsTheExtendedInstruction := by
  intro s
  refine ⟨fun b1 h1 => exec_prefixCB h1, fun e h1 => ?_, fun b1 h1 hreg => ?_, fun b1 h1 h0 => ?_⟩
  · simp [exec, execPrefixCB, h1]
  · rw [exec_prefixCB h1]
    exact exec_decodeExtended_reg hreg s
  · rw [exec_prefixCB h1]
    exact step_of_fetch (by rw [fetchInstr_of_prefix h0, h1]; rfl)

/-! ## The errors of a step (R300 to R305) -/

theorem regionLoad_error {fill : Byte} {r : Region} {m : Cells} {a : Word} {e : Fault}
    (h : regionLoad fill r m a = .error e) : e = .unmappedAddress a := by
  unfold regionLoad at h
  split at h <;> cases h
  rfl

/-- A load fails only where no device claims the address. -/
theorem busLoad_error {s : State} {a : Word} {e : Fault} (h : busLoad s a = .error e) : e = .unmappedAddress a := by
  cases hw : inWindow s.cart.window a.toNat with
  | false =>
    rw [busLoad_outside hw] at h
    split at h <;> cases h
    rfl
  | true =>
    rw [busLoad_inside hw] at h
    cases hc : s.cart with
    | type0 img => rw [hc] at h; exact regionLoad_error h
    | type1 img sel =>
      rw [hc, cartLoad] at h
      split at h <;> cases h
      rfl

theorem regionStore_error {fill v : Byte} {r : Region} {m : Cells} {a : Word} {e : Fault}
    (h : regionStore fill r m a v = .error e) : e = .unmappedAddress a ∨ e = .permissionDenied a := by
  unfold regionStore at h
  split at h
  · split at h <;> cases h
    exact .inr rfl
  · cases h
    exact .inl rfl

theorem selectBank_error {policy : BankOorPolicy} {nsw sel n : Nat} {a : Word} {e : Fault}
    (h : selectBank policy nsw sel n a = .error e) : e = .unmappedAddress a := by
  unfold selectBank at h
  split at h
  · cases h
  · split at h <;> cases h
    rfl

theorem cartStore_error {policy : BankOorPolicy} {k : Cartridge} {a : Word} {v : Byte} {e : Fault}
    (h : cartStore policy k a v = .error e) : e = .unmappedAddress a ∨ e = .permissionDenied a := by
  unfold cartStore at h
  split at h
  · split at h
    · cases h
    next hr => cases h; exact regionStore_error hr
  · split at h
    · split at h
      · cases h
      next hs => cases h; exact .inl (selectBank_error hs)
    · split at h <;> cases h
      · exact .inr rfl
      · exact .inl rfl

/-- A store fails as unmapped or as denied, at its own address. -/
theorem busStore_error {s : State} {a : Word} {v : Byte} {e : Fault} (h : busStore s a v = .error e) :
    e = .unmappedAddress a ∨ e = .permissionDenied a := by
  unfold busStore at h
  split at h
  · cases h; exact .inl rfl
  · split at h
    · cases h
    next hs => cases h; exact cartStore_error hs
  · split at h
    · cases h
    next hs => cases h; exact regionStore_error hs

theorem fetchOperands_error {s : State} {b0 : Byte} {e : Fault} (h : fetchOperands s b0 = .error e) :
    ∃ a, busLoad s a = .error e := by
  unfold fetchOperands at h
  split at h
  · cases h
  · split at h
    next h1 => cases h; exact ⟨_, h1⟩
    · cases h
  · split at h
    next h1 => cases h; exact ⟨_, h1⟩
    · split at h
      next h2 => cases h; exact ⟨_, h2⟩
      · cases h

theorem fetchInstr_accessError {s : State} {e : Fault} (h : fetchInstr s = .error e) : AccessError s e := by
  unfold fetchInstr at h
  split at h
  next h0 => cases h; exact .inl ⟨_, h0⟩
  · split at h
    · split at h
      next h1 => cases h; exact .inl ⟨_, h1⟩
      · cases h
    · split at h
      · exact .inl (fetchOperands_error h)
      · cases h; exact .inr (.inr ⟨_, rfl⟩)

theorem step_accessError {s : State} {e : Fault} (h : step s = .fault e) : AccessError s e := by
  cases hf : fetchInstr s with
  | error e' =>
    rw [step_of_fetch_error hf] at h
    cases h
    exact fetchInstr_accessError hf
  | ok i =>
    rw [step_of_fetch hf] at h
    exact exec_accessError h

theorem step_ne_refused {s : State} {r : Refusal} : step s ≠ .refused r := by
  cases hf : fetchInstr s with
  | error e => simp [step_of_fetch_error hf]
  | ok i => rw [step_of_fetch hf]; exact exec_ne_refused

/-- Settles O23: an error is a load's, a store's, or UnknownOpcode. -/
theorem onlyThreeErrorKindsEndAStep : Obligations.OnlyThreeErrorKindsEndAStep := by
  refine fun s => ⟨fun r => step_ne_refused, fun e h => ?_⟩
  rcases step_accessError h with ⟨a, h⟩ | ⟨a, v, h⟩ | ⟨b0, rfl⟩
  · rw [busLoad_error h]; exact .inl rfl
  · rcases busStore_error h with rfl | rfl
    · exact .inl rfl
    · exact .inr (.inl rfl)
  · exact .inr (.inr rfl)

/-! ## The step port (R304, R346) -/

theorem stepPort_ok_iff {cycles : Instr → Bool → Nat} {s t : State} {n : Nat} :
    StepPort cycles s (.ok n) t ↔
      ∃ i, fetchInstr s = .ok i ∧ exec i s = .next t ∧ cycles i (transferTaken i s) = n := by
  constructor
  · intro h
    cases h with
    | ok fetched ran => exact ⟨_, fetched, ran, rfl⟩
  · rintro ⟨i, fetched, ran, rfl⟩
    exact .ok fetched ran

theorem stepPort_err_iff {cycles : Instr → Bool → Nat} {s t : State} {k : ErrorKind} :
    StepPort cycles s (.err k) t ↔ ∃ e, step s = .fault e ∧ MayRemain s t ∧ e.kind = k := by
  constructor
  · intro h
    cases h with
    | err failed remains => exact ⟨_, failed, remains, rfl⟩
  · rintro ⟨e, failed, remains, rfl⟩
    exact .err failed remains

theorem mayRemain_precise {s t : State} (hp : s.par.faultState = .precise) (h : MayRemain s t) : t = s := by
  rwa [MayRemain, hp] at h

/-- Under either policy a failed step leaves memory and the cartridge. -/
theorem mayRemain_mem_cart {s t : State} (h : MayRemain s t) : t.mem = s.mem ∧ t.cart = s.cart := by
  unfold MayRemain at h
  split at h
  · exact h ▸ ⟨rfl, rfl⟩
  · exact ⟨h.1, h.2.1⟩

/-- Settles O25: a failed step fails again from the state it left. -/
theorem failedStepChangesNothing : Obligations.FailedStepChangesNothing := by
  intro cycles s t kind h
  obtain ⟨e, failed, remains, rfl⟩ := stepPort_err_iff.mp h
  refine ⟨fun hp => ?_, mayRemain_mem_cart remains⟩
  obtain rfl := mayRemain_precise hp remains
  refine ⟨rfl, fun r u hu => ?_⟩
  cases hu with
  | ok fetched ran => cases failed.symm.trans (step_eq_next.mpr ⟨_, fetched, ran⟩)
  | err failed' remains' =>
    cases failed.symm.trans failed'
    exact ⟨rfl, mayRemain_precise hp remains'⟩

/-- Settles O26: the table of cycles stands in no premise of the port's rules. -/
theorem cyclesNeverChangeTheState : Obligations.CyclesNeverChangeTheState := by
  refine fun c1 c2 s => ⟨fun n t h => ?_, fun k t h => ?_, fun t h => ?_⟩
  · obtain ⟨i, fetched, ran, _⟩ := stepPort_ok_iff.mp h
    exact ⟨step_eq_next.mpr ⟨i, fetched, ran⟩, _, .ok fetched ran⟩
  · exact stepPort_err_iff.mpr (stepPort_err_iff.mp h)
  · obtain ⟨i, fetched, ran⟩ := step_eq_next.mp h
    exact ⟨_, .ok fetched ran⟩

end Sys2Proof.Claims
end

section
/-! Construction, Memory Regions, the cartridges and 16-bit accesses (spec/70_reset_and_hazards.md R330 to R333,
spec/20_memory.md R51 to R73), and the register pairs (spec/10_state.md R22, R24). -/

namespace Sys2Proof.Claims

open Sys2Proof Sys2Proof.Machine

/-! ## Construction -/

theorem construct_of_factory_error {b : BuildParams} {img : Image} {e : Fault} (h : cartridgeFactory b img = .error e) :
    construct b img = .fault e := by
  simp [construct, h, raise]

theorem construct_of_factory_ok {b : BuildParams} {img : Image} {k : Cartridge} (h : cartridgeFactory b img = .ok k)
    (hw : windowsWf (k.window :: b.par.regions) = true) (hk : k.hasBank = true) :
    ∃ s, construct b img = .next s := by
  simp [construct, h, hw, hk]

theorem defaultTypeMap_eq_type0 {code : Byte} : defaultTypeMap code = some .type0 ↔ code = 0x00#8 := by
  unfold defaultTypeMap
  split <;> simp_all

theorem defaultTypeMap_eq_type1 {code : Byte} : defaultTypeMap code = some .type1 ↔ code = 0x01#8 := by
  unfold defaultTypeMap
  split <;> simp_all

/-- Settles O1: `construct_next` gives the state, `cartridgeFactory_ok` the variant. -/
theorem constructionGivesResetState : Obligations.ConstructionGivesResetState := by
  intro b img s h
  obtain ⟨k, hk, _, _, rfl⟩ := construct_next h
  refine ⟨rfl, rfl, ⟨rfl, rfl, rfl, rfl, rfl, rfl, rfl, rfl⟩, ?_⟩
  obtain ⟨_, ⟨hmap, _, rfl⟩ | ⟨hmap, _, _, _, rfl⟩⟩ := cartridgeFactory_ok hk
  · refine ⟨by simp [hmap], fun _ => rfl, by simp [hmap], fun hdef => .inl ⟨?_, rfl⟩, rfl,
      memGet_initialMemory b.par.regions b.ramInit⟩
    rw [hdef] at hmap
    exact defaultTypeMap_eq_type0.mp hmap
  · refine ⟨by simp [hmap], by simp [hmap], fun _ => rfl, fun hdef => .inr ⟨?_, rfl⟩, rfl,
      memGet_initialMemory b.par.regions b.ramInit⟩
    rw [hdef] at hmap
    exact defaultTypeMap_eq_type1.mp hmap

theorem factory_of_short {b : BuildParams} {img : Image} (h : img.len < 0x14A) :
    cartridgeFactory b img = .error .imageGeometryMismatch := if_pos h

section
variable {b : BuildParams} {img : Image} (hmin : 0x14A ≤ img.len)
include hmin

theorem factory_of_unsupported (hmap : b.typeMap (img.byte 0x147) = none) :
    cartridgeFactory b img = .error (.unsupportedCartridgeType (img.byte 0x147)) := by
  rw [cartridgeFactory, if_neg (by omega)]
  simp only [hmap]

theorem factory_of_type0 (hmap : b.typeMap (img.byte 0x147) = some .type0) :
    cartridgeFactory b img = if img.len ≤ 0x8000 then .ok (.type0 img) else .error .imageGeometryMismatch := by
  rw [cartridgeFactory, if_neg (by omega)]
  simp only [hmap]

theorem factory_of_type1 {n : Nat} (hmap : b.typeMap (img.byte 0x147) = some .type1)
    (hbanks : b.romBanks (img.byte 0x148) = some n) :
    cartridgeFactory b img =
      if img.len = n * bankSize then .ok (.type1 img 0) else .error .imageGeometryMismatch := by
  rw [cartridgeFactory, if_neg (by omega)]
  simp only [hmap, hbanks]

theorem factory_of_type1_noBanks (hmap : b.typeMap (img.byte 0x147) = some .type1)
    (hbanks : b.romBanks (img.byte 0x148) = none) :
    cartridgeFactory b img = .error .imageGeometryMismatch := by
  rw [cartridgeFactory, if_neg (by omega)]
  simp only [hmap, hbanks]

end

/-- Settles O3: each case is one answer of the factory. -/
theorem constructionErrorsAreNamed : Obligations.ConstructionErrorsAreNamed := by
  refine fun b img => ⟨fun h => construct_of_factory_error (factory_of_short h),
    fun hmin hmap => construct_of_factory_error (factory_of_unsupported hmin hmap),
    fun hmap hlen => construct_of_factory_error ?_, fun hmin hmap hlen => construct_of_factory_error ?_⟩
  · rw [factory_of_type0 (by omega) hmap, if_neg (by omega)]
  · cases hbanks : b.romBanks (img.byte 0x148) with
    | none => exact factory_of_type1_noBanks hmin hmap hbanks
    | some n => exact (factory_of_type1 hmin hmap hbanks).trans (if_neg (hlen n hbanks))

theorem defaultRomBanks_eq_some {code : Byte} {n : Nat} :
    defaultRomBanks code = some n ↔ code.toNat ≤ 8 ∧ n = 2 ^ (code.toNat + 1) := by
  unfold defaultRomBanks
  rw [Nat.shiftLeft_eq, Nat.mul_comm, ← Nat.pow_succ]
  split <;> simp_all [eq_comm]

/-- A cartridge window that ends at 0x8000 or before leaves the default region free. -/
theorem windowsWf_default {n : Nat} (hn : n ≤ 0x8000) :
    windowsWf (⟨0, n, .readOnly⟩ :: BuildParams.default.par.regions) = true := by
  simp [windowsWf, disjointWindows, BuildParams.default, Params.default, hn, hn.trans]

/-- Settles O2: the two variants of the factory under the default maps, in both directions. -/
theorem constructionSucceedsExactlyOnFittingImages : Obligations.ConstructionSucceedsExactlyOnFittingImages := by
  intro img
  constructor
  · rintro ⟨s, h⟩
    obtain ⟨k, hk, _⟩ := construct_next h
    obtain ⟨hmin, ⟨hmap, hmax, _⟩ | ⟨hmap, n, hbanks, hlen, _⟩⟩ := cartridgeFactory_ok hk
    · exact ⟨hmin, .inl ⟨defaultTypeMap_eq_type0.mp hmap, hmax⟩⟩
    · obtain ⟨hcode, rfl⟩ := defaultRomBanks_eq_some.mp hbanks
      exact ⟨hmin, .inr ⟨defaultTypeMap_eq_type1.mp hmap, hcode, hlen.trans (Nat.mul_comm ..)⟩⟩
  · rintro ⟨hmin, ⟨hcode, hmax⟩ | ⟨hcode, hsize, hlen⟩⟩
    · have hk : cartridgeFactory BuildParams.default img = .ok (.type0 img) := by
        rw [factory_of_type0 hmin (defaultTypeMap_eq_type0.mpr hcode), if_pos hmax]
      exact construct_of_factory_ok hk (windowsWf_default hmax) rfl
    · have hk : cartridgeFactory BuildParams.default img = .ok (.type1 img 0) :=
        (factory_of_type1 hmin (defaultTypeMap_eq_type1.mpr hcode) (defaultRomBanks_eq_some.mpr ⟨hsize, rfl⟩)).trans
          (if_pos (hlen.trans (Nat.mul_comm ..)))
      refine construct_of_factory_ok hk (windowsWf_default le_rfl) (decide_eq_true ?_)
      have hdiv : img.len / bankSize = 2 ^ ((img.byte 0x148).toNat + 1) := by
        rw [hlen]; exact Nat.mul_div_cancel_left _ (by decide)
      have hpow := Nat.one_lt_two_pow (Nat.succ_ne_zero (img.byte 0x148).toNat)
      rw [Image.nsw, hdiv]
      omega

theorem imageCells_replicate_unlisted (o n : Nat) : imageCells o (List.replicate n unlistedImageByte) = [] := by
  induction n generalizing o with
  | zero => rfl
  | succ n ih => rw [List.replicate_succ, imageCells, if_pos rfl, ih]

/-- Settles O4: the bytes 0x00 are the blank image, which lists none of them. -/
theorem resetStateIsConstructed : Obligations.ResetStateIsConstructed := by
  have himg : Image.ofBytes (List.replicate 0x8000 0x00#8) = blankImage := by
    rw [Image.ofBytes, List.length_replicate]
    exact congrArg _ (imageCells_replicate_unlisted 0 0x8000)
  refine ⟨rfl, ?_⟩
  rw [constructBytes, himg]
  rfl

/-! ## Memory Regions (R51, R52) -/

theorem inWindow_iff {r : Region} {a : Nat} : inWindow r a = true ↔ r.base ≤ a ∧ a < r.base + r.len := by
  simp [inWindow]

theorem inWindow_eq_false_iff {r : Region} {a : Nat} :
    inWindow r a = false ↔ ¬(r.base ≤ a ∧ a < r.base + r.len) := by
  rw [← inWindow_iff, Bool.not_eq_true]

/-- Settles O5: the bound check decides first, then the permission. -/
theorem memoryRegionLoadAndStore : Obligations.MemoryRegionLoadAndStore := by
  refine fun fill r bytes a v => ⟨fun hout => ?_, fun hin => ?_⟩
  · have hw := inWindow_eq_false_iff.mpr hout
    simp [regionLoad, regionStore, hw]
  · have hw := inWindow_iff.mpr hin
    refine ⟨by simp [regionLoad, hw], fun hp => by simp [regionStore, hw, hp], fun hp => ?_⟩
    exact ⟨cellsPut fill bytes a.toNat v, by simp [regionStore, hw, hp], (cellsGet_cellsPut ..).trans (if_pos rfl),
      fun k hk => (cellsGet_cellsPut ..).trans (if_neg hk)⟩

/-! ## Cartridges (R64, R67 to R69) -/

/-- Settles O7: the window of a Type0 cartridge is its image, a ReadOnly region. -/
theorem typeZeroCartridgeIsReadOnly : Obligations.TypeZeroCartridgeIsReadOnly := by
  intro s img a v hc ha
  have hw : inWindow (type0Region img) a.toNat = true :=
    inWindow_iff.mpr ⟨Nat.zero_le _, by simpa [type0Region] using ha⟩
  have hin : inWindow s.cart.window a.toNat = true := by rwa [hc]
  refine ⟨?_, ?_⟩
  · rw [busLoad_inside hin, hc, cartLoad, regionLoad, if_pos hw]
    rfl
  · rw [busStore_of_route_cartridge v (if_pos hin), hc, cartStore, regionStore, if_pos hw]
    rfl

theorem bankIndex_eq (v : Byte) : bankIndex v = max v.toNat 1 - 1 := by
  unfold bankIndex
  split
  next h => rw [h]; rfl
  next h =>
    have : v.toNat ≠ 0 := fun h0 => h (BitVec.eq_of_toNat_eq h0)
    omega

theorem cartStore_controlPort {policy : BankOorPolicy} {img : Image} {sel : Nat} {a : Word} (v : Byte)
    (ha : InControlPort a) : cartStore policy (.type1 img sel) a v =
      (selectBank policy img.nsw sel (max v.toNat 1 - 1) a).map (.type1 img) := by
  obtain ⟨hlo, hhi⟩ := ha
  rw [← bankIndex_eq, cartStore, if_pos ⟨hlo, hhi⟩]
  cases selectBank policy img.nsw sel (bankIndex v) a <;> rfl

theorem cartStore_outsideControlPort {policy : BankOorPolicy} {img : Image} {sel : Nat} {a : Word} (v : Byte)
    (ha : ¬InControlPort a) : cartStore policy (.type1 img sel) a v =
      if a.toNat ≤ 0x7FFF then .error (.permissionDenied a) else .error (.unmappedAddress a) := if_neg ha

/-- Settles O9: by the part of the window the address lies in, and in the control port by the bank and the policy. -/
theorem typeOneCartridgeStores : Obligations.TypeOneCartridgeStores := by
  refine fun policy img sel a v => ⟨fun hlo hhi => ?_, fun h => ?_, fun h => ?_⟩
  · rw [cartStore_controlPort v ⟨hlo, hhi⟩]
    unfold selectBank
    refine ⟨fun hn => by rw [if_pos hn]; rfl, fun hn => ?_⟩
    rw [if_neg (by omega)]
    exact ⟨fun hp => by rw [hp]; rfl, fun hp => by rw [hp]; rfl, fun hp => by rw [hp]; rfl⟩
  · rw [cartStore_outsideControlPort v (by unfold InControlPort; omega), if_pos (by omega)]
  · rw [cartStore_outsideControlPort v (by unfold InControlPort; omega), if_neg (by omega)]

/-! ## 16-bit accesses (R57, R58, R73) -/

theorem load16_of_bytes {s : State} {a : Word} {lo hi : Byte} (hlo : busLoad s a = .ok lo)
    (hhi : busLoad s (a + 1#16) = .ok hi) : load16 s a = .ok (mk16 hi lo) := by
  simp [load16, hlo, hhi]

/-- Settles O11: by what each of the two byte loads gives. -/
theorem wordLoadIsTwoByteLoads : Obligations.WordLoadIsTwoByteLoads :=
  fun _ _ => ⟨fun lo hi hlo hhi => ⟨_, load16_of_bytes hlo hhi, mk16_toNat hi lo⟩, fun e he => by simp [load16, he],
    fun lo e hlo he => by simp [load16, hlo, he], rfl⟩

theorem lo8_eq_of_toNat {w : Word} {lo : Byte} (h : lo.toNat = w.toNat % 256) : lo8 w = lo :=
  BitVec.eq_of_toNat_eq ((lo8_toNat w).trans h.symm)

theorem hi8_eq_of_toNat {w : Word} {hi : Byte} (h : hi.toNat = w.toNat / 256) : hi8 w = hi :=
  BitVec.eq_of_toNat_eq ((hi8_toNat w).trans h.symm)

/-- Settles O12: that the second store still succeeds after the first is `busStore_after`. -/
theorem wordStoreIsAllOrNothing : Obligations.WordStoreIsAllOrNothing := by
  intro s a w lo hi hlo hhi
  obtain rfl := lo8_eq_of_toNat hlo
  obtain rfl := hi8_eq_of_toNat hhi
  refine ⟨fun e he => by simp [store16, he], fun t e ht he => by simp [store16, ht, he], fun t u ht hu => ?_⟩
  obtain ⟨t2, ht2⟩ := busStore_after ht hu
  exact ⟨t2, ht2, by simp [store16, ht, hu, ht2]⟩

/-- A store outside the cartridge changes its byte and nothing else that a load can see. -/
theorem busStore_outside {s t : State} {a : Word} {v : Byte} (ha : OutsideCartridge s a)
    (h : busStore s a v = .ok t) :
    t.cart = s.cart ∧ t.par = s.par ∧ ∀ k, busLoad t k = if k = a then .ok v else busLoad s k := by
  rcases busStore_cases h with ⟨hout, ⟨r, hmem, hr, _⟩, rfl⟩ | ⟨img, sel, sel', hc, hlo, hhi, _⟩
  · exact ⟨rfl, rfl, busLoad_afterRegionStore hout (List.any_eq_true.mpr ⟨r, hmem, hr⟩)⟩
  · refine absurd ?_ ha
    simp only [hc, Cartridge.window]
    omega

/-- The same of the two bytes of a 16-bit store. -/
theorem store16_outside {s t : State} {a w : Word} (ha : OutsideCartridge s a) (ha1 : OutsideCartridge s (a + 1#16))
    (h : store16 s a w = .ok t) :
    t.cart = s.cart ∧ t.par = s.par ∧ busLoad t a = .ok (lo8 w) ∧ busLoad t (a + 1#16) = .ok (hi8 w) ∧
      ∀ k, k ≠ a → k ≠ a + 1#16 → busLoad t k = busLoad s k := by
  obtain ⟨s1, h1, h2⟩ := store16_ok h
  obtain ⟨hc1, hp1, hl1⟩ := busStore_outside ha h1
  obtain ⟨hc2, hp2, hl2⟩ := busStore_outside (by rwa [OutsideCartridge, hc1]) h2
  have hne : a ≠ a + 1#16 := by simp
  exact ⟨hc2.trans hc1, hp2.trans hp1, by rw [hl2, if_neg hne, hl1, if_pos rfl], by rw [hl2, if_pos rfl],
    fun k hk hk1 => by rw [hl2, if_neg hk1, hl1, if_neg hk]⟩

theorem load16_of_halves {s : State} {a w : Word} (hlo : busLoad s a = .ok (lo8 w))
    (hhi : busLoad s (a + 1#16) = .ok (hi8 w)) : load16 s a = .ok w := by
  rw [load16_of_bytes hlo hhi, mk16_hi8_lo8]

/-- Settles O13: the two stores in RAM do not disturb each other (`store16_outside`). -/
theorem wordStoreIsLittleEndian : Obligations.WordStoreIsLittleEndian := by
  intro s t a w h ha ha1
  obtain ⟨_, _, hlo, hhi, hframe⟩ := store16_outside ha ha1 h
  exact ⟨load16_of_halves hlo hhi, ⟨lo8 w, hi8 w, hlo, hhi, lo8_toNat w, hi8_toNat w⟩, hframe⟩

/-! ## Register pairs (10_state.md R22, R24) -/

theorem toByte_toNat (f : Flags) :
    f.toByte.toNat = f.z.toNat * 0x80 + f.n.toNat * 0x40 + f.h.toNat * 0x20 + f.c.toNat * 0x10 := by
  rcases f with ⟨_ | _, _ | _, _ | _, _ | _⟩ <;> rfl

/-- The low four bits written to F are discarded. -/
theorem toByte_ofByte (v : Byte) : (Flags.ofByte v).toByte = v &&& 0xF0#8 := by
  revert v
  decide

theorem mk16_and (hi lo m n : Byte) : mk16 hi lo &&& mk16 m n = mk16 (hi &&& m) (lo &&& n) :=
  BitVec.and_append

/-- Only F of the four pairs drops bits of what is written. -/
theorem af_setAf (s : State) (v : Word) : (s.setAf v).af = v &&& 0xFFF0#16 := by
  calc (s.setAf v).af = mk16 (hi8 v) (lo8 v &&& 0xF0#8) := by simp [State.af, toByte_ofByte]
    _ = mk16 (hi8 v) (lo8 v) &&& mk16 (BitVec.allOnes 8) 0xF0#8 := by rw [mk16_and, BitVec.and_allOnes]
    _ = v &&& 0xFFF0#16 := by rw [mk16_hi8_lo8]; rfl

/-- Writing a pair its own halves changes nothing. -/
theorem setRp2_rp2 (s : State) (rr : Rp2) : s.setRp2 rr (s.rp2 rr) = s := by
  cases rr <;> simp [State.setRp2, State.rp2, State.setBc, State.setDe, State.setHl, State.setAf, State.bc, State.de,
    State.hl, State.af]

theorem rp2_setRp2 (s : State) {rr : Rp2} (h : rr ≠ .AF) (v : Word) : (s.setRp2 rr v).rp2 rr = v := by
  cases rr with
  | BC => exact s.bc_setBc v
  | DE => exact s.de_setDe v
  | HL => exact s.hl_setHl v
  | AF => exact absurd rfl h

/-- Settles O14: the round trips per pair, and AF's through `toByte_ofByte`. -/
theorem pairAccessorsRoundTrip : Obligations.PairAccessorsRoundTrip := by
  intro s v
  refine ⟨setRp2_rp2 s, fun rr h => rp2_setRp2 s h v, af_setAf s v,
    ⟨mk16_toNat .., mk16_toNat .., mk16_toNat .., ?_⟩, ⟨rfl, rfl, rfl, rfl⟩, rfl, rfl, rfl, rfl⟩
  rw [State.af, mk16_toNat, toByte_toNat]

end Sys2Proof.Claims
end

section
/-! The arithmetic of the results: each function of the model's flag layer is the rule's own pseudocode on numbers
(spec/42_alu8.md, 43_alu16.md, 44_rotate_shift.md, 45_bit.md, 48_misc.md R276). -/

namespace Sys2Proof.Claims

open Sys2Proof Sys2Proof.Machine

/-! ## Bytes as numbers -/

theorem nibble_eq (v : Byte) : nibble v = v.toNat % 16 := by
  rw [nibble, BitVec.toNat_and]
  exact Nat.and_two_pow_sub_one_eq_mod v.toNat 4

/-- The Z flag, of a byte or of its number. -/
theorem decide_eq_zero (v : Byte) : decide (v = 0#8) = (v.toNat == 0) := by
  rw [Bool.eq_iff_iff, decide_eq_true_eq, beq_iff_eq]
  exact BitVec.toNat_inj.symm

theorem getLsbD_eq (v : Byte) (i : Nat) : v.getLsbD i = decide (v.toNat / 2 ^ i % 2 = 1) :=
  Nat.testBit_eq_decide_div_mod_eq

/-! ## Displacements (30_encoding.md R103) -/

theorem signed8_eq_toInt (e8 : Byte) : signed8 e8 = e8.toInt := by
  rw [signed8, BitVec.toInt_eq_toNat_cond]
  split <;> split <;> omega

theorem moved_eq_add (w : Word) (k : Int) : moved w k = w + BitVec.ofInt 16 k := by
  rw [moved, BitVec.ofInt_add, BitVec.ofInt_natCast, BitVec.ofNat_toNat, BitVec.setWidth_eq]

theorem moved_one (w : Word) : moved w 1 = w + 1#16 := moved_eq_add w 1

theorem moved_neg_one (w : Word) : moved w (-1) = w - 1#16 := by
  rw [moved_eq_add, BitVec.sub_eq_add_neg]
  rfl

theorem moved_signed8 (w : Word) (e8 : Byte) : moved w (signed8 e8) = w + sext16 e8 := by
  rw [moved_eq_add, signed8_eq_toInt]
  rfl

theorem moved_add (w : Word) (k l : Int) : moved w (k + l) = moved (moved w k) l := by
  simp only [moved_eq_add, BitVec.ofInt_add, BitVec.add_assoc]

/-! ## Results modulo 256 -/

theorem ofNat_mod_256 (n : Nat) : BitVec.ofNat 8 (n % 256) = BitVec.ofNat 8 n :=
  BitVec.eq_of_toNat_eq (by simp)

theorem ofInt_mod_256 (k : Int) : BitVec.ofInt 8 (k % 256) = BitVec.ofInt 8 k :=
  BitVec.eq_of_toNat_eq (by simp)

theorem decide_ofNat_eq_zero (n : Nat) : decide (BitVec.ofNat 8 n = 0#8) = (n % 256 == 0) := by
  rw [decide_eq_zero, BitVec.toNat_ofNat]

theorem decide_ofInt_eq_zero (k : Int) : decide (BitVec.ofInt 8 k = 0#8) = (k % 256 == 0) := by
  rw [decide_eq_zero, BitVec.toNat_ofInt, Bool.eq_iff_iff, beq_iff_eq, beq_iff_eq]
  omega

theorem ofInt_sub {n : Nat} (k l : Int) : BitVec.ofInt n (k - l) = BitVec.ofInt n k - BitVec.ofInt n l := by
  rw [Int.sub_eq_add_neg, BitVec.ofInt_add, BitVec.ofInt_neg, BitVec.sub_eq_add_neg]

theorem ofInt_toNat (v : Byte) : BitVec.ofInt 8 (v.toNat : Int) = v := by
  rw [BitVec.ofInt_natCast, BitVec.ofNat_toNat, BitVec.setWidth_eq]

/-! ## 8-bit arithmetic (42_alu8.md) -/

theorem add8_eq_r170 (mode : CarryInFlagMode) (cin : Bool) (a v : Byte) : add8 mode cin a v = r170 mode cin a v := by
  cases mode <;> simp [add8, r170, flagCarry, nibble_eq, decide_ofNat_eq_zero, ofNat_mod_256]

theorem sub8_eq_r171 (mode : CarryInFlagMode) (cin : Bool) (a v : Byte) : sub8 mode cin a v = r171 mode cin a v := by
  have hr : a - v - BitVec.ofNat 8 cin.toNat = BitVec.ofInt 8 ((a.toNat : Int) - v.toNat - cin.toNat) := by
    rw [ofInt_sub, ofInt_sub, ofInt_toNat, ofInt_toNat, BitVec.ofInt_natCast]
  have hz : decide (a - v - BitVec.ofNat 8 cin.toNat = 0#8) = (((a.toNat : Int) - v.toNat - cin.toNat) % 256 == 0) := by
    rw [hr, decide_ofInt_eq_zero]
  cases mode <;> simp only [sub8, r171, nibble_eq, ofInt_mod_256, hz] <;> rw [hr] <;> rfl

theorem inc8_eq_r196 : inc8 = r196 := by
  funext f v
  have hr : v + 1#8 = BitVec.ofNat 8 (v.toNat + 1) := by simp [BitVec.ofNat_add]
  simp only [inc8, r196, nibble_eq, hr, decide_ofNat_eq_zero, ofNat_mod_256]

theorem dec8_eq_r198 : dec8 = r198 := by
  funext f v
  have hr : v - 1#8 = BitVec.ofInt 8 ((v.toNat : Int) - 1) := by
    rw [ofInt_sub, ofInt_toNat]
    rfl
  simp only [dec8, r198, nibble_eq, hr, decide_ofInt_eq_zero, ofInt_mod_256]

/-- The number R276's lines arrive at: the correction by 0x60, then that by 0x06. -/
def daaLines (f : Flags) (a : Byte) : Int :=
  let a1 : Int :=
    if f.n then (if f.c then a.toNat - 0x60 else a.toNat)
    else (if f.c || (!f.n && decide ((a.toNat : Int) > 0x99)) then a.toNat + 0x60 else a.toNat)
  if f.n then (if f.h then a1 - 0x06 else a1) else (if f.h || decide (a1 % 16 > 9) then a1 + 0x06 else a1)

/-- The two corrections in one: added after an addition, taken away after a subtraction. -/
def daaSum (f : Flags) (a : Byte) : Int :=
  if f.n then (a.toNat : Int) - daaDown f else a.toNat + daaUp f a

/-- The first correction is a multiple of 16, so the second depends on the low nibble before either. -/
theorem daaLines_eq_daaSum (f : Flags) (a : Byte) : daaLines f a = daaSum f a := by
  have hlow : ((a.toNat : Int) + 0x60) % 16 = a.toNat % 16 := by omega
  cases hn : f.n with
  | false => grind [daaLines, daaSum, daaUp]
  | true => grind [daaLines, daaSum, daaDown]

theorem r276_eq (f : Flags) (a : Byte) : r276 f a = (BitVec.ofInt 8 (daaLines f a),
    ⟨daaLines f a % 256 == 0, f.n, false, f.c || (!f.n && decide (a.toNat > 0x99))⟩) := by
  rcases f with ⟨z, n, h, c⟩
  cases n <;> simp [r276, daaLines]

theorem daa8_eq_r276 (f : Flags) (a : Byte) : daa8 f a = r276 f a := by
  have hr : (daa8 f a).1 = BitVec.ofInt 8 (daaSum f a) := by
    unfold daaSum
    split
    next h => simp [daa8, h, ofInt_sub, BitVec.ofInt_natCast]
    next h => simp [daa8, h, BitVec.ofInt_add, BitVec.ofInt_natCast]
  rw [r276_eq, daaLines_eq_daaSum, ← decide_ofInt_eq_zero, ← hr]
  rfl

/-! ## 16-bit arithmetic (43_alu16.md, 41_load16.md R163) -/

theorem spPlus_eq (sp : Word) (e8 : Byte) : spPlus sp e8 = (moved sp (signed8 e8), r203Flags sp e8) := by
  have h4 : (sp &&& 0x000F#16).toNat = sp.toNat % 16 := Nat.and_two_pow_sub_one_eq_mod sp.toNat 4
  have h8 : (sp &&& 0x00FF#16).toNat = sp.toNat % 256 := Nat.and_two_pow_sub_one_eq_mod sp.toNat 8
  simp [spPlus, r203Flags, moved_signed8, nibble_eq, h4, h8]

theorem addHL16_eq (f : Flags) (a v : Word) : addHL16 f a v = (BitVec.ofNat 16 (a.toNat + v.toNat),
    ⟨f.z, false, decide ((a &&& 0x0FFF#16).toNat + (v &&& 0x0FFF#16).toNat > 0x0FFF),
      decide (a.toNat + v.toNat > 0xFFFF)⟩) := by
  have h12 (w : Word) : (w &&& 0x0FFF#16).toNat = w.toNat % 0x1000 := Nat.and_two_pow_sub_one_eq_mod w.toNat 12
  simp [addHL16, h12, BitVec.ofNat_add]

/-! ## Rotates and shifts (44_rotate_shift.md R210 to R217) -/

/-- A byte shifted up and bits below its lowest one add up. -/
theorem toNat_shiftLeft_or {i : Nat} {lo : Byte} (h : lo.toNat < 2 ^ i) (v : Byte) :
    ((v <<< i) ||| lo).toNat = (v.toNat * 2 ^ i + lo.toNat) % 256 := by
  rw [BitVec.toNat_or, BitVec.toNat_shiftLeft, ← Nat.mod_eq_of_lt lo.isLt, ← Nat.or_mod_two_pow, Nat.mod_eq_of_lt lo.isLt,
    ← Nat.shiftLeft_add_eq_or_of_lt h, Nat.shiftLeft_eq]

theorem toNat_ushiftRight (v : Byte) (i : Nat) : (v >>> i).toNat = v.toNat / 2 ^ i := by
  rw [BitVec.toNat_ushiftRight, Nat.shiftRight_eq_div_pow]

theorem toNat_ofBool (c : Bool) : (BitVec.ofNat 8 c.toNat).toNat = c.toNat := by
  cases c <;> rfl

/-- The sign bit in its own place. -/
theorem and_0x80 (v : Byte) : v &&& 0x80#8 = (v >>> 7) <<< 7 := by
  revert v
  decide

theorem toNat_and_0x0F (v : Byte) : (v &&& 0x0F#8).toNat = v.toNat % 16 := nibble_eq v

theorem getLsbD_seven (v : Byte) : v.getLsbD 7 = (v.toNat / 128 == 1) := by
  rw [getLsbD_eq, Bool.eq_iff_iff, decide_eq_true_eq, beq_iff_eq]
  omega

theorem getLsbD_zero (v : Byte) : v.getLsbD 0 = (v.toNat % 2 == 1) := by
  rw [getLsbD_eq, Bool.eq_iff_iff, decide_eq_true_eq, beq_iff_eq]
  omega

/-- The operation of the model with the number `y` of R107, on a carry-in and a byte. -/
def rotateOp (y : Fin 8) (cin : Bool) (v : Byte) : Byte × Bool :=
  match y with
  | 0 => rlcOp v
  | 1 => rrcOp v
  | 2 => rlOp cin v
  | 3 => rrOp cin v
  | 4 => slaOp v
  | 5 => sraOp v
  | 6 => swapOp v
  | 7 => srlOp v

theorem rotateOp_snd (y : Fin 8) (cin : Bool) (v : Byte) : (rotateOp y cin v).2 = (rotated y cin v.toNat).2 := by
  match y with
  | 0 | 2 | 4 => exact getLsbD_seven v
  | 1 | 3 | 5 | 7 => exact getLsbD_zero v
  | 6 => rfl

theorem rotateOp_fst (y : Fin 8) (cin : Bool) (v : Byte) : (rotateOp y cin v).1.toNat = (rotated y cin v.toNat).1 := by
  have hv := v.isLt
  have hc := cin.toNat_le
  match y with
  | 0 =>
    have := toNat_ushiftRight v 7
    exact (toNat_shiftLeft_or (by omega) v).trans (by simp only [rotated]; omega)
  | 1 =>
    have := toNat_ushiftRight v 1
    rw [rotateOp, rrcOp, BitVec.or_comm, toNat_shiftLeft_or (by omega)]
    simp only [rotated]; omega
  | 2 =>
    have := toNat_ofBool cin
    exact (toNat_shiftLeft_or (by omega) v).trans (by simp only [rotated]; omega)
  | 3 =>
    have := toNat_ushiftRight v 1
    have := toNat_ofBool cin
    rw [rotateOp, rrOp, BitVec.or_comm, toNat_shiftLeft_or (by omega)]
    simp only [rotated]; omega
  | 4 => exact (BitVec.toNat_shiftLeft ..).trans (by rw [Nat.shiftLeft_eq]; rfl)
  | 5 =>
    have := toNat_ushiftRight v 1
    have := toNat_ushiftRight v 7
    rw [rotateOp, sraOp, and_0x80, BitVec.or_comm, toNat_shiftLeft_or (by omega)]
    simp only [rotated]; omega
  | 6 =>
    have := toNat_ushiftRight v 4
    have := toNat_and_0x0F v
    exact (toNat_shiftLeft_or (by omega) _).trans (by simp only [rotated]; omega)
  | 7 => exact toNat_ushiftRight v 1

theorem rotateFlags_eq_r222 (y : Fin 8) (f : Flags) (v : Byte) : rotateFlags (rotateOp y f.c v) = r222 y f v := by
  have h1 : (rotateOp y f.c v).1 = BitVec.ofNat 8 (rotated y f.c v.toNat).1 := by rw [← rotateOp_fst]; simp
  rw [rotateFlags, r222, decide_eq_zero, rotateOp_fst, rotateOp_snd, h1]

/-! ## Bits (45_bit.md) -/

theorem not_getLsbD_eq (v : Byte) (i : Nat) : (!v.getLsbD i) = (v.toNat / 2 ^ i % 2 == 0) := by
  rw [getLsbD_eq, Bool.eq_iff_iff, beq_iff_eq, Bool.not_eq_true', decide_eq_false_iff_not]
  omega

theorem mask_eq_ofNat (b : Fin 8) : 1#8 <<< b.val = BitVec.ofNat 8 (2 ^ b.val) :=
  BitVec.eq_of_toNat_eq (by simp [Nat.shiftLeft_eq])

theorem and_mask (v : Byte) (b : Fin 8) : v &&& 1#8 <<< b.val = if v.getLsbD b then 1#8 <<< b.val else 0#8 := by
  rw [← BitVec.twoPow_eq, BitVec.and_twoPow]

/-- The two parts of a byte: the bit and the other seven. -/
theorem resBit_or_and_mask (b : Fin 8) (v : Byte) : resBit b v ||| (v &&& 1#8 <<< b.val) = v := by
  rw [resBit, ← BitVec.and_or_distrib_left, BitVec.not_or_self, BitVec.and_allOnes]

theorem resBit_and_mask (b : Fin 8) (v : Byte) : resBit b v &&& 1#8 <<< b.val = 0#8 := by
  rw [resBit, BitVec.and_assoc, BitVec.and_comm (~~~_)]
  simp

theorem resBit_of_clear {b : Fin 8} {v : Byte} (h : v.getLsbD b = false) : resBit b v = v := by
  have := resBit_or_and_mask b v
  rw [and_mask, h] at this
  simpa using this

theorem resBit_of_set {b : Fin 8} {v : Byte} (h : v.getLsbD b = true) : resBit b v + 1#8 <<< b.val = v := by
  have := resBit_or_and_mask b v
  rw [and_mask, if_pos h] at this
  rwa [BitVec.add_eq_or_of_and_eq_zero _ _ (resBit_and_mask b v)]

theorem setBit_of_clear {b : Fin 8} {v : Byte} (h : v.getLsbD b = false) : setBit b v = v + 1#8 <<< b.val := by
  refine (BitVec.add_eq_or_of_and_eq_zero _ _ ?_).symm
  rw [and_mask, h]
  rfl

theorem setBit_of_set {b : Fin 8} {v : Byte} (h : v.getLsbD b = true) : setBit b v = v := by
  have hmask := and_mask v b
  rw [if_pos h] at hmask
  rw [setBit, ← hmask]
  exact BitVec.eq_of_getElem_eq fun i hi => by cases h : v[i] <;> simp [h]

theorem resBit_eq (b : Fin 8) (v : Byte) :
    resBit b v = BitVec.ofNat 8 (if v.toNat.testBit b then v.toNat - 2 ^ b.val else v.toNat) := by
  cases h : v.getLsbD b with
  | false => rw [resBit_of_clear h, if_neg (by rw [BitVec.testBit_toNat, h]; decide)]; simp
  | true =>
    have hle : 2 ^ b.val ≤ v.toNat := Nat.ge_two_pow_of_testBit h
    have hsum : BitVec.ofNat 8 (v.toNat - 2 ^ b.val) + 1#8 <<< b.val = v := by
      rw [mask_eq_ofNat, ← BitVec.ofNat_add, Nat.sub_add_cancel hle]; simp
    rw [if_pos (by rw [BitVec.testBit_toNat, h])]
    exact (BitVec.add_left_inj _).mp ((resBit_of_set h).trans hsum.symm)

theorem setBit_eq (b : Fin 8) (v : Byte) :
    setBit b v = BitVec.ofNat 8 (if v.toNat.testBit b then v.toNat else v.toNat + 2 ^ b.val) := by
  cases h : v.getLsbD b with
  | false =>
    rw [setBit_of_clear h, if_neg (by rw [BitVec.testBit_toNat, h]; decide), BitVec.ofNat_add, mask_eq_ofNat]
    simp
  | true => rw [setBit_of_set h, if_pos (by rw [BitVec.testBit_toNat, h])]; simp

end Sys2Proof.Claims
end

section
/-! The results of the instructions (spec/40_load8.md to 48_misc.md): each family is one of the shapes of completion, and
a shape is settled once from the shared operation the family is built from. -/

namespace Sys2Proof.Claims

open Sys2Proof Sys2Proof.Machine

/-! ## Ending an instruction -/

/-- An instruction that has not moved `pc` ends at the next one. -/
theorem finish_of_pc {s t : State} (n : Nat) (h : t.pc = s.pc) :
    finish n t = .next { t with pc := s.pc + BitVec.ofNat 16 n } := by
  rw [finish, State.npc, h]
  rfl

theorem pc_of_busStore {s t : State} {a : Word} {v : Byte} (h : busStore s a v = .ok t) : t.pc = s.pc := by
  obtain ⟨_, _, _, hpc, _⟩ := busStore_frame h
  exact hpc

theorem pc_of_store16 {s t : State} {a w : Word} (h : store16 s a w = .ok t) : t.pc = s.pc := by
  obtain ⟨_, _, _, hpc, _⟩ := store16_frame h
  exact hpc

theorem hl_of_busStore {s t : State} {a : Word} {v : Byte} (h : busStore s a v = .ok t) : t.hl = s.hl := by
  obtain ⟨_, _, hhl, _⟩ := busStore_pairs h
  exact hhl

theorem highPage_eq (o : Byte) : highPage o = 0xFF#8 ++ o := by
  refine BitVec.eq_of_toNat_eq ?_
  have happ : (0xFF#8 ++ o).toNat = 0xFF * 256 + o.toNat := mk16_toNat 0xFF#8 o
  have := o.isLt
  rw [happ, highPage, zext16, BitVec.toNat_add, BitVec.toNat_setWidth]
  simp only [BitVec.toNat_ofNat]
  omega

theorem lo8_eq_setWidth (w : Word) : lo8 w = w.setWidth 8 :=
  BitVec.eq_of_toNat_eq (by simp [lo8_toNat])

/-! ## Loads of a register (40_load8.md) -/

/-- An instruction that goes on with a byte loaded completes with that byte, or ends with the load's error. -/
theorem loadsFrom_of_andThen {i : Instr} {addr : State → Word} {k : State → Byte → Result}
    {after : State → Byte → State} (hi : ∀ s, exec i s = andThen (busLoad s (addr s)) (k s))
    (hk : ∀ s v, k s v = .next (after s v)) : LoadsFrom i addr after :=
  fun s => ⟨fun v h => by rw [hi, h, andThen_ok, hk], fun e h => by rw [hi, h, andThen_error]⟩

theorem loadsFrom_loadA {i : Instr} {addr : State → Word} (n : Nat) (hi : ∀ s, exec i s = loadA n (addr s) s) :
    LoadsFrom i addr fun s v => { s with a := v, pc := s.pc + BitVec.ofNat 16 n } :=
  loadsFrom_of_andThen hi fun _ _ => rfl

/-- Settles O31: register moves end at the next instruction; the forms that read memory are `LoadsFrom`. -/
theorem byteLoadsComplete : Obligations.ByteLoadsComplete := by
  refine ⟨State.reg_setReg, fun _ => ⟨rfl, rfl, rfl, rfl, rfl, rfl, rfl⟩,
    fun _ _ => ⟨rfl, rfl, rfl, rfl, rfl, rfl, rfl⟩, fun s w => ?_,
    fun s r r' => finish_of_pc 1 (by simp [postMod]), fun s r d8 => finish_of_pc 2 (by simp [postMod]),
    fun r => loadsFrom_of_andThen (fun _ => rfl) fun s v => finish_of_pc 1 (by simp [postMod]),
    loadsFrom_of_andThen (fun _ => rfl) fun s v => ?_, loadsFrom_of_andThen (fun _ => rfl) fun s v => ?_,
    loadsFrom_loadA 1 fun _ => rfl, loadsFrom_loadA 1 fun _ => rfl, fun a16 => loadsFrom_loadA 3 fun _ => rfl,
    fun a8 => loadsFrom_loadA 2 fun s => ?_, loadsFrom_loadA 1 fun s => ?_⟩
  · rw [← lo8_eq_setWidth]; rfl
  · rw [moved_one]; rfl
  · rw [moved_neg_one]; rfl
  · rw [← highPage_eq]; rfl
  · rw [← highPage_eq]; rfl

/-! ## Stores (40_load8.md) -/

/-- An instruction that goes on with a store completes as the rest of it says, or ends with the store's error. -/
theorem storesTo_of_andThen {i : Instr} {addr : State → Word} {value : State → Byte} {k : State → Result}
    {also : State → State → State} (hi : ∀ s, exec i s = andThen (busStore s (addr s) (value s)) k)
    (hk : ∀ s t, busStore s (addr s) (value s) = .ok t → k t = .next (also s t)) : StoresTo i addr value also :=
  fun s => ⟨fun t h => by rw [hi, h, andThen_ok, hk s t h], fun e h => by rw [hi, h, andThen_error]⟩

theorem storesTo_finish {i : Instr} {addr : State → Word} {value : State → Byte} (n : Nat)
    (hi : ∀ s, exec i s = andThen (busStore s (addr s) (value s)) (finish n)) :
    StoresTo i addr value fun s t => { t with pc := s.pc + BitVec.ofNat 16 n } :=
  storesTo_of_andThen hi fun _ _ h => finish_of_pc n (pc_of_busStore h)

/-- Settles O32: every form is a store that ends at the next instruction; (HL+) and (HL-) also move HL. -/
theorem byteStoresComplete : Obligations.ByteStoresComplete := by
  refine ⟨fun r => storesTo_finish 1 fun _ => rfl, fun d8 => storesTo_finish 2 fun _ => rfl,
    storesTo_of_andThen (fun _ => rfl) fun s t h => ?_, storesTo_of_andThen (fun _ => rfl) fun s t h => ?_,
    storesTo_finish 1 fun _ => rfl, storesTo_finish 1 fun _ => rfl, fun a16 => storesTo_finish 3 fun _ => rfl,
    fun a8 => storesTo_finish 2 fun s => ?_, storesTo_finish 1 fun s => ?_⟩
  · have hpc := pc_of_busStore h
    rw [moved_one, ← hl_of_busStore h]
    exact finish_of_pc 1 hpc
  · have hpc := pc_of_busStore h
    rw [moved_neg_one, ← hl_of_busStore h]
    exact finish_of_pc 1 hpc
  · rw [← highPage_eq]; rfl
  · rw [← highPage_eq]; rfl

/-! ## 16-bit loads (41_load16.md) -/

/-- Settles O33: the immediate forms by their halves, HL from `spPlus_eq`, the store of sp from its 16-bit store. -/
theorem wordLoadsComplete : Obligations.WordLoadsComplete := by
  refine fun s => ⟨fun d => ?_, fun d => ?_, fun d => ?_, fun d => rfl, rfl, fun e8 => ?_, fun a t h => ?_,
    fun a e h => ?_⟩
  · rw [← lo8_eq_setWidth]; rfl
  · rw [← lo8_eq_setWidth]; rfl
  · rw [← lo8_eq_setWidth]; rfl
  · simp only [exec, execLdHLSPE8, spPlus_eq]; rfl
  · simp only [exec, execLdA16SP, h, andThen_ok]
    exact finish_of_pc 3 (pc_of_store16 h)
  · simp only [exec, execLdA16SP, h, andThen_error]

/-! ## Operations on A (42_alu8.md) -/

/-- The three operand forms of an operation on A, whose result is `result`. -/
theorem aluForms_accumulate {onReg : Reg8 → Instr} {onHL : Instr} {onD8 : Byte → Instr}
    (g : State → Byte → Byte → Byte × Flags) {result : State → Byte → Byte × Flags}
    (hg : ∀ s v, g s s.a v = result s v)
    (hreg : ∀ r s, exec (onReg r) s = accumulate 1 (.reg r) (g s) s := by intros; rfl)
    (hhl : ∀ s, exec onHL s = accumulate 1 .hlInd (g s) s := by intros; rfl)
    (hd8 : ∀ d s, exec (onD8 d) s = accumulate 2 (.imm d) (g s) s := by intros; rfl) :
    AluForms onReg onHL onD8 fun s n v => onA s n (result s v) :=
  fun s => ⟨fun r => by simp only [hreg, accumulate, rd8, andThen_ok, hg]; rfl,
    fun v h => by simp only [hhl, accumulate, rd8, h, andThen_ok, hg]; rfl,
    fun e h => by simp only [hhl, accumulate, rd8, h, andThen_error],
    fun d => by simp only [hd8, accumulate, rd8, andThen_ok, hg]; rfl⟩

theorem aluForms_compareA {onReg : Reg8 → Instr} {onHL : Instr} {onD8 : Byte → Instr}
    (g : State → Byte → Byte → Byte × Flags) {result : State → Byte → Byte × Flags}
    (hg : ∀ s v, g s s.a v = result s v)
    (hreg : ∀ r s, exec (onReg r) s = compareA 1 (.reg r) (g s) s := by intros; rfl)
    (hhl : ∀ s, exec onHL s = compareA 1 .hlInd (g s) s := by intros; rfl)
    (hd8 : ∀ d s, exec (onD8 d) s = compareA 2 (.imm d) (g s) s := by intros; rfl) :
    AluForms onReg onHL onD8 fun s n v => { s with f := (result s v).2, pc := s.pc + n } :=
  fun s => ⟨fun r => by simp only [hreg, compareA, rd8, andThen_ok, hg]; rfl,
    fun v h => by simp only [hhl, compareA, rd8, h, andThen_ok, hg]; rfl,
    fun e h => by simp only [hhl, compareA, rd8, h, andThen_error],
    fun d => by simp only [hd8, compareA, rd8, andThen_ok, hg]; rfl⟩

/-- Settles O34: the model's `add8` is the pseudocode's (`add8_eq_r170`). -/
theorem addAndAdcFollowTheRule : Obligations.AddAndAdcFollowTheRule :=
  ⟨aluForms_accumulate (fun s => add8 s.par.carryIn false) fun s => add8_eq_r170 s.par.carryIn false s.a,
    aluForms_accumulate (fun s => add8 s.par.carryIn s.f.c) fun s => add8_eq_r170 s.par.carryIn s.f.c s.a⟩

/-- Settles O35: the model's `sub8` is the pseudocode's (`sub8_eq_r171`), and CP keeps its flags only. -/
theorem subSbcAndCpFollowTheRule : Obligations.SubSbcAndCpFollowTheRule :=
  ⟨aluForms_accumulate (fun s => sub8 s.par.carryIn false) fun s => sub8_eq_r171 s.par.carryIn false s.a,
    aluForms_accumulate (fun s => sub8 s.par.carryIn s.f.c) fun s => sub8_eq_r171 s.par.carryIn s.f.c s.a,
    aluForms_compareA (fun s => sub8 s.par.carryIn false) fun s => sub8_eq_r171 s.par.carryIn false s.a⟩

/-- Settles O36: the model's operations are the bitwise ones, Z being whether the result is zero. -/
theorem logicFollowsTheRule : Obligations.LogicFollowsTheRule :=
  ⟨aluForms_accumulate (fun _ => and8) fun s v => by rw [and8, decide_eq_zero],
    aluForms_accumulate (fun _ => xor8) fun s v => by rw [xor8, decide_eq_zero],
    aluForms_accumulate (fun _ => or8) fun s v => by rw [or8, decide_eq_zero]⟩

/-! ## Read-modify-writes (42_alu8.md R196 to R199, 44_rotate_shift.md R222, 45_bit.md) -/

theorem modifiesReg_modify8 {i : Instr} {r : Reg8} {op : Flags → Byte → Byte × Flags} (n : Nat)
    (hi : ∀ s, exec i s = modify8 n (.reg r) (op s.f) s) : ModifiesReg i r (BitVec.ofNat 16 n) op := by
  intro s
  rw [hi]
  exact finish_of_pc n (by simp)

theorem modifiesHL_modify8 {i : Instr} {op : Flags → Byte → Byte × Flags} (n : Nat)
    (hi : ∀ s, exec i s = modify8 n .hlInd (op s.f) s) : ModifiesHL i (BitVec.ofNat 16 n) op := by
  intro s
  rw [hi]
  refine ⟨fun v t hv ht => ?_, fun e he => modify8_eq_fault.mpr (.inl he),
    fun v e hv he => modify8_eq_fault.mpr (.inr ⟨v, hv, he⟩)⟩
  refine modify8_eq_next.mpr ⟨v, t, hv, ht, ?_⟩
  rw [State.npc, pc_of_busStore ht]
  rfl

theorem modifiesTarget_modify8 {i : Sel8 → Instr} {op : Flags → Byte → Byte × Flags}
    (hi : ∀ t s, exec (i t) s = modify8 2 (selTarget t) (op s.f) s) : ModifiesTarget i op :=
  ⟨fun r => modifiesReg_modify8 2 (hi (.reg r)), modifiesHL_modify8 2 (hi .hlInd)⟩

/-- Settles O37: each form is the read-modify-write `modify8` of the pseudocode's operation. -/
theorem incAndDecFollowTheRule : Obligations.IncAndDecFollowTheRule := by
  unfold Obligations.IncAndDecFollowTheRule
  rw [← inc8_eq_r196, ← dec8_eq_r198]
  exact ⟨fun r => modifiesReg_modify8 1 fun _ => rfl, modifiesHL_modify8 1 fun _ => rfl,
    fun r => modifiesReg_modify8 1 fun _ => rfl, modifiesHL_modify8 1 fun _ => rfl⟩

/-- An extended rotate or shift, given by the model's operation `y`. -/
theorem modifiesTarget_rotate {i : Sel8 → Instr} (y : Fin 8)
    (hi : ∀ t s, exec (i t) s = modify8 2 (selTarget t) (fun v => rotateFlags (rotateOp y s.f.c v)) s) :
    ModifiesTarget i (r222 y) :=
  modifiesTarget_modify8 fun t s => (hi t s).trans (by simp only [rotateFlags_eq_r222])

/-- Settles O40: each operation is the model's `rotateOp` with R222's flags. -/
theorem rotatesAndShiftsFollowTheRule : Obligations.RotatesAndShiftsFollowTheRule :=
  ⟨modifiesTarget_rotate 0 fun _ _ => rfl, modifiesTarget_rotate 1 fun _ _ => rfl,
    modifiesTarget_rotate 2 fun _ _ => rfl, modifiesTarget_rotate 3 fun _ _ => rfl,
    modifiesTarget_rotate 4 fun _ _ => rfl, modifiesTarget_rotate 5 fun _ _ => rfl,
    modifiesTarget_rotate 6 fun _ _ => rfl, modifiesTarget_rotate 7 fun _ _ => rfl⟩

/-- The one-byte rotates differ from the extended ones on A by Z alone. -/
theorem rotateA_eq (y : Fin 8) (s : State) : rotateA (rotateOp y s.f.c s.a) s =
    .next (onA s 1 ((r222 y s.f s.a).1, ⟨false, false, false, (r222 y s.f s.a).2.c⟩)) := by
  rw [← rotateFlags_eq_r222]
  rfl

/-- Settles O41: each is `rotateOp` on A (`rotateA_eq`); operations 0, 2, 1, 3. -/
theorem accumulatorRotatesClearZ : Obligations.AccumulatorRotatesClearZ :=
  fun s => ⟨rotateA_eq 0 s, rotateA_eq 2 s, rotateA_eq 1 s, rotateA_eq 3 s⟩

/-- Settles O42: Z is the complement of the bit (`not_getLsbD_eq`). -/
theorem bitTestsWithoutWriting : Obligations.BitTestsWithoutWriting := by
  refine fun s b => ⟨fun r => ?_, fun v h => ?_, fun e h => ?_⟩
  · rw [← not_getLsbD_eq]; rfl
  · rw [← not_getLsbD_eq]
    simp only [exec, execBitBT, selTarget, rd8, h, andThen_ok]
    rfl
  · simp only [exec, execBitBT, selTarget, rd8, h, andThen_error]

/-- Settles O43: both are the read-modify-write `modify8`, on the bit operations. -/
theorem resAndSetChangeOneBit : Obligations.ResAndSetChangeOneBit := by
  intro b
  simp only [← resBit_eq, ← setBit_eq]
  exact ⟨modifiesTarget_modify8 fun _ _ => rfl, modifiesTarget_modify8 fun _ _ => rfl⟩

/-! ## 16-bit arithmetic (43_alu16.md) -/

/-- Settles O38: the move is `moved` by 1 and by -1, and a pair write keeps the flags. -/
theorem pairIncAndDecWrap : Obligations.PairIncAndDecWrap := by
  refine fun s rr => ⟨?_, ?_, fun w => ⟨s.rp_setRp rr w, s.setRp_f rr w⟩⟩
  · rw [moved_one]
    exact finish_of_pc 1 (by simp)
  · rw [moved_neg_one]
    exact finish_of_pc 1 (by simp)

/-- Settles O39: the model's sums are the numbers' (`addHL16_eq`, `spPlus_eq`). -/
theorem wordAdditionsFollowTheRule : Obligations.WordAdditionsFollowTheRule := by
  refine fun s => ⟨fun rr => ?_, fun e8 => ?_⟩
  · simp only [exec, execAddHLRr, addHL16_eq]; rfl
  · simp only [exec, execAddSPE8, spPlus_eq]; rfl

/-! ## The stack (46_stack_call.md) -/

/-- An instruction that pushes and then sets `pc`, or ends with the error of the push. -/
theorem pushesAndGoes_of_andThen {i : Instr} {value target : State → Word} {k : State → Result} {s : State}
    (hi : exec i s = andThen (push16 s (value s)) k)
    (hk : ∀ t, store16 s (s.sp - 2#16) (value s) = .ok t →
      k (t.setSp (s.sp - 2#16)) = .next { t with sp := s.sp - 2#16, pc := target s }) :
    PushesAndGoes i value target s := by
  refine ⟨fun t h => ?_, fun e h => ?_⟩
  · rw [hi, push16_eq_ok.mpr ⟨t, h, rfl⟩, andThen_ok, hk t h]
  · rw [hi, push16_eq_error.mpr h, andThen_error]

theorem popsToPc_returnTo {i : Instr} {s : State} (hi : exec i s = returnTo s) : PopsToPc i s :=
  ⟨fun w h => hi.trans (returnTo_eq_next.mpr ⟨w, h, rfl⟩), fun _ h => hi.trans (returnTo_eq_fault.mpr h)⟩

/-- Settles O44: PUSH is a 16-bit store and POP a 16-bit load, each followed by the move of sp. -/
theorem pushAndPopMoveTheStack : Obligations.PushAndPopMoveTheStack := by
  refine fun s rr => ⟨pushesAndGoes_of_andThen rfl fun t h => ?_, fun w h => ?_, fun e h => ?_⟩
  · have hpc := pc_of_store16 h
    exact finish_of_pc 1 hpc
  · simp only [exec, execPopRr, pop16, h, andThen_ok]
    cases rr <;> rfl
  · simp only [exec, execPopRr, pop16, h, andThen_error]

theorem rstVector_eq (y : Fin 8) : rstVector y = BitVec.ofNat 16 (8 * y.val) := by
  rw [rstVector, Nat.mul_comm]

/-- Settles O46: each is a push that goes on with a jump; a condition that fails only ends the instruction. -/
theorem callsPushTheReturnAddress : Obligations.CallsPushTheReturnAddress := by
  refine fun s => ⟨fun a => pushesAndGoes_of_andThen rfl fun _ _ => rfl,
    fun cc a h => pushesAndGoes_of_andThen (if_pos h) fun _ _ => rfl, fun cc a h => ?_, fun y h => ?_, fun y h => ?_⟩
  · exact if_neg (by simp [h])
  · refine pushesAndGoes_of_andThen (k := jumpTo (rstVector y)) (by simp only [exec, execRstN, h]; rfl) fun t _ => ?_
    rw [rstVector_eq]; rfl
  · refine pushesAndGoes_of_andThen (k := jumpTo (rstVector y)) (by simp only [exec, execRstN, h]; rfl) fun t _ => ?_
    rw [rstVector_eq]; rfl

/-- Settles O47: each is `returnTo`; a condition that fails only ends the instruction. -/
theorem returnsPopIntoPc : Obligations.ReturnsPopIntoPc :=
  fun _ => ⟨popsToPc_returnTo rfl, popsToPc_returnTo rfl, fun _ h => popsToPc_returnTo (if_pos h),
    fun _ h => if_neg (by simp [h])⟩

theorem rp2_withSpPc (s : State) (rr : Rp2) (sp pc : Word) :
    ({ s with sp := sp, pc := pc } : State).rp2 rr = s.rp2 rr := by
  cases rr <;> rfl

/-- What a completed PUSH leaves: the 16-bit store's bytes, and `sp` lowered. -/
theorem exec_pushRr_next {s t : State} {rr : Rp2} (h : exec (.pushRr rr) s = .next t) :
    t.sp = s.sp - 2#16 ∧
      ∃ u, store16 s (s.sp - 2#16) (s.rp2 rr) = .ok u ∧ ∀ a, busLoad t a = busLoad u a := by
  obtain ⟨s1, hpush, hend⟩ := andThen_eq_next.mp h
  obtain ⟨u, hstore, rfl⟩ := push16_eq_ok.mp hpush
  obtain rfl := finish_eq_next.mp hend
  exact ⟨rfl, u, hstore, fun _ => rfl⟩

/-- Settles O45: the two bytes pushed are the word popped (`store16_outside`). -/
theorem pushThenPopGivesTheValueBack : Obligations.PushThenPopGivesTheValueBack := by
  intro s t rr qq h ha ha1
  obtain ⟨hsp, u, hstore, hload⟩ := exec_pushRr_next h
  have hnext : s.sp - 2#16 + 1#16 = s.sp - 1#16 := by bv_omega
  obtain ⟨_, _, hlo, hhi, _⟩ := store16_outside ha (hnext ▸ ha1) hstore
  have hword : load16 t t.sp = .ok (s.rp2 rr) := by
    rw [hsp]
    exact load16_of_halves ((hload _).trans hlo) ((hload _).trans hhi)
  obtain ⟨_, hpop, _⟩ := pushAndPopMoveTheStack t qq
  refine ⟨_, hpop _ hword, ?_, fun hqq => ?_, ?_⟩
  · exact (congrArg (· + 2#16) hsp).trans (BitVec.sub_add_cancel ..)
  · rw [rp2_withSpPc, rp2_setRp2 _ hqq]
  · rintro rfl
    rw [rp2_withSpPc]
    exact af_setAf t _

/-! ## Jumps (47_jump.md) -/

theorem relTarget_eq (e8 : Byte) (s : State) : relTarget e8 s = moved s.pc (2 + signed8 e8) := by
  rw [moved_add, moved_signed8, moved_eq_add]
  rfl

/-- Settles O48: the target by `relTarget_eq`, then by whether the condition holds. -/
theorem jumpsGoToTheirTarget : Obligations.JumpsGoToTheirTarget := by
  refine fun s => ⟨fun e8 => by rw [← relTarget_eq]; rfl, fun a => rfl, rfl, fun cc holds h => ?_⟩
  obtain rfl : holds = s.f.cond cc := by rw [h]; cases cc <;> rfl
  refine ⟨fun e8 => ?_, fun a => ?_⟩
  · rw [← relTarget_eq]
    simp only [exec, execJrCcE8]
    split <;> rfl
  · simp only [exec, execJpCcA16]
    split <;> rfl

/-! ## Miscellaneous (48_misc.md) -/

theorem complement_eq (v : Byte) : v ^^^ 0xFF#8 = BitVec.ofNat 8 (255 - v.toNat) := by
  have hall : v ^^^ 0xFF#8 = ~~~v := BitVec.xor_allOnes
  rw [hall]
  exact BitVec.eq_of_toNat_eq (by simp; omega)

/-- Settles O49: each by its meaning, CPL through `complement_eq`. -/
theorem miscellaneousFollowTheRule : Obligations.MiscellaneousFollowTheRule :=
  fun _ => ⟨rfl, rfl, rfl, by rw [← complement_eq]; rfl, rfl, rfl⟩

/-- Settles O50: the model's correction is the pseudocode's (`daa8_eq_r276`). -/
theorem daaFollowsTheRule : Obligations.DaaFollowsTheRule :=
  fun s => by rw [← daa8_eq_r276]; rfl

end Sys2Proof.Claims
end

section
/-! The frame family (spec/10_state.md R21, R25, R28, R30; spec/20_memory.md R76; spec/60_exceptions.md R302): what any
instruction changes and where it can be denied, said once for all of them: its flags, its destinations, `sp`, `pc` and
the bytes it stores. -/

namespace Sys2Proof.Claims

open Sys2Proof Sys2Proof.Machine

/-! ## Places -/

/-- The address is one of the bytes of a place (`IsStored` of `storesAt`). -/
def InPlace (place : Option (Word × Nat)) (a : Word) : Prop :=
  ∃ w n, place = some (w, n) ∧ ∃ k, k < n ∧ a = w + BitVec.ofNat 16 k

theorem inPlace_byte {a k : Word} : InPlace (some (a, 1)) k ↔ k = a := by
  constructor
  · rintro ⟨_, _, h, j, hj, rfl⟩
    cases h
    obtain rfl : j = 0 := by omega
    exact BitVec.add_zero a
  · rintro rfl
    exact ⟨k, 1, rfl, 0, by decide, (BitVec.add_zero k).symm⟩

theorem inPlace_word {a k : Word} : InPlace (some (a, 2)) k ↔ k = a ∨ k = a + 1#16 := by
  constructor
  · rintro ⟨_, _, h, j, hj, rfl⟩
    cases h
    obtain rfl | rfl : j = 0 ∨ j = 1 := by omega
    · exact .inl (BitVec.add_zero a)
    · exact .inr rfl
  · rintro (rfl | rfl)
    · exact ⟨k, 2, rfl, 0, by decide, (BitVec.add_zero k).symm⟩
    · exact ⟨a, 2, rfl, 1, by decide, rfl⟩

/-- An error that is PermissionDenied only at one of the bytes of a place. -/
def DeniedIn (place : Option (Word × Nat)) (e : Fault) : Prop :=
  ∀ k, e = .permissionDenied k → InPlace place k

/-! ## Frames -/

/-- What a row of R25's table says of the four flags before and after. -/
def FlagRow.Allows (row : FlagRow) (f g : Flags) : Prop :=
  row.z.Allows f.z g.z ∧ row.n.Allows f.n g.n ∧ row.h.Allows f.h g.h ∧ row.c.Allows f.c g.c

/-- The row of an instruction that writes no flag. -/
def keptRow : FlagRow := ⟨.kept, .kept, .kept, .kept⟩

theorem keptRow_allows {f g : Flags} (h : g = f) : keptRow.Allows f g :=
  h ▸ ⟨rfl, rfl, rfl, rfl⟩

/-- Memory and the cartridge after an instruction that stores at the given place, of so many bytes. -/
inductive StoreAt (s t : State) : Option (Word × Nat) → Prop where
  | nothing (mem : t.mem = s.mem) (cart : t.cart = s.cart) : StoreAt s t none
  | byte {a : Word} {v : Byte} {u : State} (store : busStore s a v = .ok u) (mem : t.mem = u.mem)
      (cart : t.cart = u.cart) : StoreAt s t (some (a, 1))
  | word {a w : Word} {u : State} (store : store16 s a w = .ok u) (mem : t.mem = u.mem) (cart : t.cart = u.cart) :
      StoreAt s t (some (a, 2))

theorem StoreAt.congr {s t u : State} {place : Option (Word × Nat)} (h : StoreAt s t place) (hm : u.mem = t.mem)
    (hc : u.cart = t.cart) : StoreAt s u place := by
  cases h with
  | nothing mem cart => exact .nothing (hm.trans mem) (hc.trans cart)
  | byte store mem cart => exact .byte store (hm.trans mem) (hc.trans cart)
  | word store mem cart => exact .word store (hm.trans mem) (hc.trans cart)

/-- What holds of every part of the state but `pc`: the flags as the row says, the other registers kept, `sp` kept where
that is asked, the bytes stored at the given place. -/
structure Frame (row : FlagRow) (regs : List Reg8) (keepsSp : Prop) (place : Option (Word × Nat)) (s t : State) :
    Prop where
  flags : row.Allows s.f t.f
  others : ∀ q, q ∉ regs → t.reg q = s.reg q
  sp : keepsSp → t.sp = s.sp
  store : StoreAt s t place

section
variable {row : FlagRow} {regs : List Reg8} {keepsSp advances : Prop} {place : Option (Word × Nat)} {s t u : State}
  {n : Nat}

theorem Frame.setPc (h : Frame row regs keepsSp place s u) (w : Word) : Frame row regs keepsSp place s (u.setPc w) :=
  ⟨h.flags, fun q hq => (u.reg_setPc q w).trans (h.others q hq), h.sp, h.store.congr rfl rfl⟩

theorem Frame.refl (s : State) : Frame keptRow [] keepsSp none s s :=
  ⟨keptRow_allows rfl, fun _ _ => rfl, fun _ => rfl, .nothing rfl rfl⟩

/-- What holds of an instruction's answer: of a next state the frame, with `pc` at the next instruction where the
instruction advances; of an error, that a store of the place was denied if any was. None is refused. -/
def Conforms (row : FlagRow) (regs : List Reg8) (keepsSp advances : Prop) (n : Nat) (place : Option (Word × Nat))
    (s : State) : Result → Prop
  | .next t => Frame row regs keepsSp place s t ∧ (advances → t.pc = s.pc + BitVec.ofNat 16 n)
  | .fault e => DeniedIn place e
  | .refused _ => False

/-- An instruction that ends at the next one. -/
theorem conforms_finish (hpc : u.pc = s.pc) (hframe : Frame row regs keepsSp place s u) :
    Conforms row regs keepsSp advances n place s (finish n u) :=
  ⟨hframe.setPc _, fun _ => by rw [State.setPc_pc, State.npc, hpc]⟩

/-- An instruction that transfers control. -/
theorem conforms_jumpTo {w : Word} (hadv : ¬advances) (hframe : Frame row regs keepsSp place s u) :
    Conforms row regs keepsSp advances n place s (jumpTo w u) :=
  ⟨hframe.setPc _, fun h => absurd h hadv⟩

theorem conforms_unknownOpcode (b0 : Byte) :
    Conforms row regs keepsSp advances n place s (raise (.unknownOpcode b0)) :=
  fun _ h => nomatch h

/-- An instruction that goes on with what an access gave, or ends with its error. -/
theorem conforms_andThen {α : Type} {x : Except Fault α} {k : α → Result}
    (herr : ∀ e, x = .error e → DeniedIn place e)
    (hok : ∀ v, x = .ok v → Conforms row regs keepsSp advances n place s (k v)) :
    Conforms row regs keepsSp advances n place s (andThen x k) := by
  cases x with
  | error e => exact herr e rfl
  | ok v => exact hok v rfl

/-- A conditional instruction. -/
theorem conforms_ite {c : Bool} {x y : Result} (hx : c = true → Conforms row regs keepsSp advances n place s x)
    (hy : Conforms row regs keepsSp advances n place s y) :
    Conforms row regs keepsSp advances n place s (if c then x else y) := by
  split
  next h => exact hx h
  · exact hy

/-! ## Errors -/

theorem deniedIn_busLoad {a : Word} {e : Fault} (h : busLoad s a = .error e) : DeniedIn place e := by
  rintro k rfl
  cases busLoad_error h

theorem deniedIn_rd8 {d : Target} {e : Fault} (h : rd8 s d = .error e) : DeniedIn place e :=
  deniedIn_busLoad (rd8_error h)

theorem deniedIn_load16 {a : Word} {e : Fault} (h : load16 s a = .error e) : DeniedIn place e := by
  unfold load16 at h
  split at h
  next h1 => cases h; exact deniedIn_busLoad h1
  · split at h
    next h1 => cases h; exact deniedIn_busLoad h1
    · cases h

/-- A byte store is denied at its own address. -/
theorem eq_of_denied {a k : Word} {v : Byte} (h : busStore s a v = .error (.permissionDenied k)) : k = a := by
  rcases busStore_error h with he | he <;> cases he
  rfl

theorem deniedIn_busStore {a : Word} {v : Byte} {e : Fault} (h : busStore s a v = .error e) :
    DeniedIn (some (a, 1)) e := by
  rintro k rfl
  exact inPlace_byte.mpr (eq_of_denied h)

theorem deniedIn_store16 {a w : Word} {e : Fault} (h : store16 s a w = .error e) : DeniedIn (some (a, 2)) e := by
  rintro k rfl
  exact inPlace_word.mpr ((store16_error h).imp eq_of_denied eq_of_denied)

/-- Flags written last are those of the row. -/
theorem Frame.setF (h : Frame keptRow regs keepsSp place s u) {f : Flags} (hf : row.Allows s.f f) :
    Frame row regs keepsSp place s (u.setF f) :=
  ⟨hf, fun q hq => (u.reg_setF q f).trans (h.others q hq), h.sp, h.store.congr rfl rfl⟩

theorem Frame.setSp (h : Frame row regs keepsSp place s u) (hsp : ¬keepsSp) (w : Word) :
    Frame row regs keepsSp place s (u.setSp w) :=
  ⟨h.flags, fun q hq => (u.reg_setSp q w).trans (h.others q hq), fun h => absurd h hsp, h.store.congr rfl rfl⟩

/-! ## Registers and pairs -/

theorem frame_setReg (s : State) (r : Reg8) (v : Byte) : Frame keptRow [r] keepsSp none s (s.setReg r v) :=
  ⟨keptRow_allows (s.setReg_f r v), fun q hq => (s.reg_setReg r q v).trans (if_neg (by simpa using hq)),
    fun _ => s.setReg_sp r v, .nothing (s.setReg_mem r v) (s.setReg_cart r v)⟩

/-- A pair is written as its two registers, and no other register is. -/
theorem reg_setReg_setReg (s : State) (r r' : Reg8) (v v' : Byte) {q : Reg8} (hq : q ∉ [r, r']) :
    ((s.setReg r v).setReg r' v').reg q = s.reg q := by
  simp only [List.mem_cons, List.not_mem_nil, or_false, not_or] at hq
  rw [State.reg_setReg, if_neg hq.2, State.reg_setReg, if_neg hq.1]

theorem reg_setRp (s : State) (rr : Rp) (w : Word) {q : Reg8} (hq : q ∉ rpRegs rr) :
    (s.setRp rr w).reg q = s.reg q := by
  cases rr with
  | BC => exact reg_setReg_setReg s .B .C (hi8 w) (lo8 w) hq
  | DE => exact reg_setReg_setReg s .D .E (hi8 w) (lo8 w) hq
  | HL => exact reg_setReg_setReg s .H .L (hi8 w) (lo8 w) hq
  | SP => exact s.reg_setSp q w

theorem reg_setRp2 (s : State) (rr : Rp2) (w : Word) {q : Reg8} (hq : q ∉ rp2Regs rr) :
    (s.setRp2 rr w).reg q = s.reg q := by
  cases rr with
  | BC => exact reg_setRp s .BC w hq
  | DE => exact reg_setRp s .DE w hq
  | HL => exact reg_setRp s .HL w hq
  | AF =>
    exact ((s.setReg .A (hi8 w)).reg_setF q _).trans ((s.reg_setReg .A q _).trans (if_neg (by simpa [rp2Regs] using hq)))

theorem Frame.setHl (h : Frame row regs keepsSp place s u) (w : Word) :
    Frame row (regs ++ [.H, .L]) keepsSp place s (u.setHl w) := by
  refine ⟨h.flags, fun q hq => ?_, h.sp, h.store.congr rfl rfl⟩
  obtain ⟨hq1, hq2⟩ := not_or.mp (mt List.mem_append.mpr hq)
  exact (reg_setRp u .HL w hq2).trans (h.others q hq1)

theorem sp_setRp {rr : Rp} (hrr : rr ≠ .SP) (s : State) (w : Word) : (s.setRp rr w).sp = s.sp := by
  cases rr
  case SP => exact absurd rfl hrr
  all_goals rfl

theorem frame_setRp {rr : Rp} (hsp : keepsSp → rr ≠ .SP) (s : State) (w : Word) :
    Frame keptRow (rpRegs rr) keepsSp none s (s.setRp rr w) :=
  ⟨keptRow_allows (s.setRp_f rr w), fun _ hq => reg_setRp s rr w hq, fun h => sp_setRp (hsp h) s w,
    .nothing (s.setRp_mem rr w) (s.setRp_cart rr w)⟩

theorem popFlagRow_allows (s : State) (rr : Rp2) (w : Word) : (popFlagRow rr).Allows s.f (s.setRp2 rr w).f := by
  cases rr
  case AF => exact ⟨trivial, trivial, trivial, trivial⟩
  all_goals exact keptRow_allows rfl

theorem frame_setRp2 (hsp : ¬keepsSp) (rr : Rp2) (w : Word) :
    Frame (popFlagRow rr) (rp2Regs rr) keepsSp none s ((s.setSp (s.sp + 2#16)).setRp2 rr w) :=
  ⟨popFlagRow_allows _ rr w, fun q hq => (reg_setRp2 _ rr w hq).trans (s.reg_setSp q _), fun h => absurd h hsp,
    .nothing (State.setRp2_mem ..) (State.setRp2_cart ..)⟩

/-! ## Stores and operands -/

theorem frame_busStore {a : Word} {v : Byte} (h : busStore s a v = .ok u) :
    Frame keptRow [] keepsSp (some (a, 1)) s u := by
  obtain ⟨hreg, hf, hsp, _⟩ := busStore_frame h
  exact ⟨keptRow_allows hf, fun q _ => hreg q, fun _ => hsp, .byte h rfl rfl⟩

theorem frame_store16 {a w : Word} (h : store16 s a w = .ok u) : Frame keptRow [] keepsSp (some (a, 2)) s u := by
  obtain ⟨hreg, hf, hsp, _⟩ := store16_frame h
  exact ⟨keptRow_allows hf, fun q _ => hreg q, fun _ => hsp, .word h rfl rfl⟩

/-- The register a write of an operand names. -/
def destRegs : Target → List Reg8
  | .reg r => [r]
  | .imm _ | .hlInd | .hlInc | .hlDec => []

/-- The registers the modification after an operand writes. -/
def modRegs : Target → List Reg8
  | .hlInc | .hlDec => [.H, .L]
  | .reg _ | .imm _ | .hlInd => []

/-- Where a write of an operand stores. -/
def targetStore (s : State) : Target → Option (Word × Nat)
  | .reg _ | .imm _ => none
  | .hlInd | .hlInc | .hlDec => some (s.hl, 1)

theorem frame_wr8 {d : Target} {v : Byte} (h : wr8 s d v = .ok u) :
    Frame keptRow (destRegs d) keepsSp (targetStore s d) s u ∧ u.pc = s.pc := by
  obtain ⟨_, _, _, hpc⟩ := wr8_effect h
  rcases wr8_ok h with ⟨r, rfl, rfl⟩ | ⟨rfl | rfl | rfl, hstore⟩
  · exact ⟨frame_setReg s r v, hpc⟩
  all_goals exact ⟨frame_busStore hstore, hpc⟩

theorem deniedIn_wr8 {d : Target} {v : Byte} {e : Fault} (hd : ∀ k, d ≠ .imm k) (h : wr8 s d v = .error e) :
    DeniedIn (targetStore s d) e := by
  obtain ⟨rfl | rfl | rfl, hstore⟩ := wr8_error hd h
  all_goals exact deniedIn_busStore hstore

theorem Frame.postMod (h : Frame row regs keepsSp place s u) (d : Target) :
    Frame row (regs ++ modRegs d) keepsSp place s (postMod d u) := by
  cases d
  case hlInc | hlDec => exact h.setHl _
  all_goals
    rw [modRegs, List.append_nil]
    exact h

theorem frame_push16 {w : Word} (hsp : ¬keepsSp) (h : push16 s w = .ok u) :
    Frame keptRow [] keepsSp (some (s.sp - 2#16, 2)) s u := by
  obtain ⟨s1, hs, rfl⟩ := push16_eq_ok.mp h
  exact (frame_store16 hs).setSp hsp _

theorem pc_of_push16 {w : Word} (h : push16 s w = .ok u) : u.pc = s.pc := by
  obtain ⟨s1, hs, rfl⟩ := push16_eq_ok.mp h
  exact (s1.setSp_pc _).trans (pc_of_store16 hs)

/-! ## The shared operations -/

theorem conforms_move8 (d r : Target) (hd : ∀ k, d ≠ .imm k) :
    Conforms keptRow (destRegs d ++ modRegs r ++ modRegs d) keepsSp advances n (targetStore s d) s (move8 n d r s) :=
  conforms_andThen (fun _ => deniedIn_rd8) fun _ _ => conforms_andThen (fun _ => deniedIn_wr8 hd) fun _ hw => by
    obtain ⟨hframe, hpc⟩ := frame_wr8 hw
    exact conforms_finish (by simpa using hpc) ((hframe.postMod r).postMod d)

theorem conforms_modify8 (d : Sel8) {g : Byte → Byte × Flags} (hg : ∀ v, row.Allows s.f (g v).2) :
    Conforms row (selRegs d) keepsSp advances n (selStore s d) s (modify8 n (selTarget d) g s) := by
  have hregs : destRegs (selTarget d) = selRegs d := by cases d <;> rfl
  have hplace : targetStore s (selTarget d) = selStore s d := by cases d <;> rfl
  rw [← hregs, ← hplace]
  refine conforms_andThen (fun _ => deniedIn_rd8) fun v _ =>
    conforms_andThen (fun _ => deniedIn_wr8 (selTarget_ne_imm d)) fun _ hw => ?_
  obtain ⟨hframe, hpc⟩ := frame_wr8 hw
  exact conforms_finish hpc (hframe.setF (hg v))

theorem conforms_accumulate (d : Target) {g : Byte → Byte → Byte × Flags} (hg : ∀ v, row.Allows s.f (g s.a v).2) :
    Conforms row [.A] keepsSp advances n none s (accumulate n d g s) :=
  conforms_andThen (fun _ => deniedIn_rd8) fun v _ => conforms_finish rfl ((frame_setReg s .A _).setF (hg v))

theorem conforms_compareA (d : Target) {g : Byte → Byte → Byte × Flags} (hg : ∀ v, row.Allows s.f (g s.a v).2) :
    Conforms row [] keepsSp advances n none s (compareA n d g s) :=
  conforms_andThen (fun _ => deniedIn_rd8) fun v _ => conforms_finish rfl ((Frame.refl s).setF (hg v))

theorem conforms_bit (b : Fin 8) (d : Sel8) :
    Conforms ⟨.computed, .zero, .one, .kept⟩ [] keepsSp advances 2 none s (execBitBT b d s) :=
  conforms_andThen (fun _ => deniedIn_rd8) fun _ _ =>
    conforms_finish rfl ((Frame.refl s).setF ⟨trivial, rfl, rfl, rfl⟩)

/-- The four one-byte rotates. -/
theorem conforms_rotateA (r : Byte × Bool) :
    Conforms ⟨.zero, .zero, .zero, .computed⟩ [.A] keepsSp advances 1 none s (rotateA r s) :=
  conforms_finish rfl ((frame_setReg s .A _).setF ⟨rfl, rfl, rfl, trivial⟩)

theorem conforms_loadA (a : Word) : Conforms keptRow [.A] keepsSp advances n none s (loadA n a s) :=
  conforms_andThen (fun _ => deniedIn_busLoad) fun v _ => conforms_finish rfl (frame_setReg s .A v)

theorem conforms_storeA (a : Word) : Conforms keptRow [] keepsSp advances n (some (a, 1)) s (storeA n a s) :=
  conforms_andThen (fun _ => deniedIn_busStore) fun _ hu => conforms_finish (pc_of_busStore hu) (frame_busStore hu)

theorem conforms_push16 {w : Word} {k : State → Result}
    (hk : ∀ u, push16 s w = .ok u → Conforms row regs keepsSp advances n (some (s.sp - 2#16, 2)) s (k u)) :
    Conforms row regs keepsSp advances n (some (s.sp - 2#16, 2)) s (andThen (push16 s w) k) :=
  conforms_andThen (fun _ h => deniedIn_store16 (push16_eq_error.mp h)) hk

theorem conforms_callTo (w : Word) (hsp : ¬keepsSp) (hadv : ¬advances) :
    Conforms keptRow [] keepsSp advances n (some (s.sp - 2#16, 2)) s (callTo w s) :=
  conforms_push16 fun _ hu => conforms_jumpTo hadv (frame_push16 hsp hu)

theorem conforms_pop16 {k : Word × State → Result}
    (hk : ∀ w, Conforms row regs keepsSp advances n none s (k (w, s.setSp (s.sp + 2#16)))) :
    Conforms row regs keepsSp advances n none s (andThen (pop16 s) k) :=
  conforms_andThen (fun _ h => deniedIn_load16 (pop16_eq_error.mp h)) fun p hp => by
    obtain ⟨w, _, rfl⟩ := pop16_eq_ok.mp hp
    exact hk w

theorem conforms_returnTo (hsp : ¬keepsSp) (hadv : ¬advances) :
    Conforms keptRow [] keepsSp advances n none s (returnTo s) :=
  conforms_pop16 fun _ => conforms_jumpTo hadv ((Frame.refl s).setSp hsp _)

theorem conforms_haltOrMiss (op : Byte) (hadv : ¬advances) :
    Conforms keptRow [] keepsSp advances n none s (haltOrMiss op s) := by
  unfold haltOrMiss
  split
  · exact ⟨Frame.refl s, fun h => absurd h hadv⟩
  · exact conforms_unknownOpcode op

end

/-! ## Every instruction -/

/-- Where 10_state.md R30 has `sp` kept. -/
def KeepsSp (i : Instr) (s : State) : Prop :=
  writesSp i = false ∨ (transferCond i ≠ none ∧ transfers i s = false)

/-- Where 10_state.md R28 has `pc` at the next instruction. -/
def Advances (i : Instr) (s : State) : Prop :=
  transfers i s = false ∧ i ≠ .halt ∧ ∀ pad, i ≠ .stop pad

theorem not_advances_of_transfers {i : Instr} {s : State} (h : transfers i s = true) : ¬Advances i s :=
  fun ⟨hno, _⟩ => by rw [h] at hno; cases hno

/-- A writer of `sp` writes it, unless its condition fails. -/
theorem not_keepsSp {i : Instr} {s : State} (hw : writesSp i = true)
    (h : transferCond i = none ∨ transfers i s = true) : ¬KeepsSp i s := by
  rintro (hno | ⟨hne, hno⟩)
  · cases hw.symm.trans hno
  · exact h.elim hne fun h => by cases h.symm.trans hno

theorem ne_SP_of_keepsSp {i : Instr} {s : State} {rr : Rp} (hw : writesSp i = decide (rr = .SP))
    (hc : transferCond i = none) (h : KeepsSp i s) : rr ≠ .SP := by
  rintro rfl
  exact not_keepsSp hw (.inl hc) h

/-- What any whole instruction changes, by the operation it is built from. -/
theorem exec_conforms {i : Instr} (s : State) (hi : i.WellFormed) :
    Conforms (flagRow i) (writtenRegs i) (KeepsSp i s) (Advances i s) i.length (storesAt i s) s (exec i s) := by
  cases i
  case prefixCB => exact absurd rfl hi
  case undefD3 | undefDB | undefDD | undefE3 | undefE4 | undefEB | undefEC | undefED | undefF4 | undefFC | undefFD =>
    exact conforms_unknownOpcode _
  case addAR r | adcAR r | subR r | sbcAR r =>
    exact conforms_accumulate (.reg r) fun _ => ⟨trivial, rfl, trivial, trivial⟩
  case addAHL | adcAHL | subHL | sbcAHL =>
    exact conforms_accumulate .hlInd fun _ => ⟨trivial, rfl, trivial, trivial⟩
  case addAD8 d | adcAD8 d | subD8 d | sbcAD8 d =>
    exact conforms_accumulate (.imm d) fun _ => ⟨trivial, rfl, trivial, trivial⟩
  case andR r | xorR r | orR r => exact conforms_accumulate (.reg r) fun _ => ⟨trivial, rfl, rfl, rfl⟩
  case andHL | xorHL | orHL => exact conforms_accumulate .hlInd fun _ => ⟨trivial, rfl, rfl, rfl⟩
  case andD8 d | xorD8 d | orD8 d => exact conforms_accumulate (.imm d) fun _ => ⟨trivial, rfl, rfl, rfl⟩
  case cpR r => exact conforms_compareA (.reg r) fun _ => ⟨trivial, rfl, trivial, trivial⟩
  case cpHL => exact conforms_compareA .hlInd fun _ => ⟨trivial, rfl, trivial, trivial⟩
  case cpD8 d => exact conforms_compareA (.imm d) fun _ => ⟨trivial, rfl, trivial, trivial⟩
  case incR r | decR r => exact conforms_modify8 (.reg r) fun _ => ⟨trivial, rfl, trivial, rfl⟩
  case incHL | decHL => exact conforms_modify8 .hlInd fun _ => ⟨trivial, rfl, trivial, rfl⟩
  case rlcT t | rrcT t | rlT t | rrT t | slaT t | sraT t | srlT t =>
    exact conforms_modify8 t fun _ => ⟨trivial, rfl, rfl, trivial⟩
  case swapT t => exact conforms_modify8 t fun _ => ⟨trivial, rfl, rfl, rfl⟩
  case resBT b t | setBT b t => exact conforms_modify8 t fun _ => keptRow_allows rfl
  case bitBT b t => exact conforms_bit b t
  case ldRR r r' => exact conforms_move8 (.reg r) (.reg r') (by simp)
  case ldRD8 r d8 => exact conforms_move8 (.reg r) (.imm d8) (by simp)
  case ldRHL r => exact conforms_move8 (.reg r) .hlInd (by simp)
  case ldHLR r => exact conforms_move8 .hlInd (.reg r) (by simp)
  case ldHLD8 d8 => exact conforms_move8 .hlInd (.imm d8) (by simp)
  case ldHLIncA => exact conforms_move8 .hlInc (.reg .A) (by simp)
  case ldHLDecA => exact conforms_move8 .hlDec (.reg .A) (by simp)
  case ldAHLInc => exact conforms_move8 (.reg .A) .hlInc (by simp)
  case ldAHLDec => exact conforms_move8 (.reg .A) .hlDec (by simp)
  case ldABC | ldADE | ldAA16 | ldhAA8 | ldAC => exact conforms_loadA _
  case ldBCA | ldDEA | ldA16A | ldhA8A | ldCA => exact conforms_storeA _
  case nop | di | ei => exact conforms_finish rfl (.refl s)
  case scf => exact conforms_finish rfl ((Frame.refl s).setF ⟨rfl, rfl, rfl, rfl⟩)
  case ccf => exact conforms_finish rfl ((Frame.refl s).setF ⟨rfl, rfl, rfl, trivial⟩)
  case cpl => exact conforms_finish rfl ((frame_setReg s .A _).setF ⟨rfl, rfl, rfl, rfl⟩)
  case daa => exact conforms_finish rfl ((frame_setReg s .A _).setF ⟨trivial, rfl, rfl, trivial⟩)
  case rlca | rla | rrca | rra => exact conforms_rotateA _
  case ldRrD16 rr _ | incRr rr | decRr rr =>
    exact conforms_finish (s.setRp_pc rr _) (frame_setRp (ne_SP_of_keepsSp rfl rfl) s _)
  case addHLRr | ldHLSPE8 =>
    exact conforms_finish rfl (((Frame.refl s).setHl _).setF ⟨rfl, rfl, trivial, trivial⟩)
  case addSPE8 =>
    exact conforms_finish rfl (((Frame.refl s).setSp (not_keepsSp rfl (.inl rfl)) _).setF ⟨rfl, rfl, trivial, trivial⟩)
  case ldSPHL => exact conforms_finish rfl ((Frame.refl s).setSp (not_keepsSp rfl (.inl rfl)) _)
  case ldA16SP =>
    exact conforms_andThen (fun _ => deniedIn_store16) fun _ hu => conforms_finish (pc_of_store16 hu) (frame_store16 hu)
  case pushRr =>
    exact conforms_push16 fun _ hu => conforms_finish (pc_of_push16 hu) (frame_push16 (not_keepsSp rfl (.inl rfl)) hu)
  case popRr rr =>
    exact conforms_pop16 fun w => conforms_finish (State.setRp2_pc ..) (frame_setRp2 (not_keepsSp rfl (.inl rfl)) rr w)
  case halt => exact conforms_haltOrMiss _ fun ⟨_, hne, _⟩ => hne rfl
  case stop pad => exact conforms_haltOrMiss _ fun ⟨_, _, hne⟩ => hne pad rfl
  case jrE8 | jpA16 | jpHL => exact conforms_jumpTo (not_advances_of_transfers rfl) (.refl s)
  case callA16 => exact conforms_callTo _ (not_keepsSp rfl (.inr rfl)) (not_advances_of_transfers rfl)
  case ret | reti => exact conforms_returnTo (not_keepsSp rfl (.inr rfl)) (not_advances_of_transfers rfl)
  case rstN =>
    exact conforms_push16 fun _ hu =>
      conforms_jumpTo (not_advances_of_transfers rfl) (frame_push16 (not_keepsSp rfl (.inr rfl)) hu)
  case jrCcE8 | jpCcA16 =>
    exact conforms_ite (fun hcc => conforms_jumpTo (not_advances_of_transfers hcc) (.refl s))
      (conforms_finish rfl (.refl s))
  case retCc =>
    exact conforms_ite (fun hcc => conforms_returnTo (not_keepsSp rfl (.inr hcc)) (not_advances_of_transfers hcc))
      (conforms_finish rfl (.refl s))
  case callCcA16 cc a16 =>
    simp only [exec, execCallCcA16, storesAt]
    split
    next hcc => exact conforms_callTo a16 (not_keepsSp rfl (.inr hcc)) (not_advances_of_transfers hcc)
    · exact conforms_finish rfl (.refl s)

theorem exec_frame {i : Instr} {s t : State} (hi : i.WellFormed) (h : exec i s = .next t) :
    Frame (flagRow i) (writtenRegs i) (KeepsSp i s) (storesAt i s) s t ∧
      (Advances i s → t.pc = s.pc + BitVec.ofNat 16 i.length) := by
  have hconf := exec_conforms s hi
  rwa [h] at hconf

theorem exec_deniedIn {i : Instr} {s : State} {e : Fault} (hi : i.WellFormed) (h : exec i s = .fault e) :
    DeniedIn (storesAt i s) e := by
  have hconf := exec_conforms s hi
  rwa [h] at hconf

/-- Settles O54: the flags of the frame. -/
theorem flagsFollowTheWriterTable : Obligations.FlagsFollowTheWriterTable :=
  fun _ _ _ hi h => (exec_frame hi h).1.flags

/-- Settles O55: the registers of the frame. -/
theorem otherRegistersAreKept : Obligations.OtherRegistersAreKept :=
  fun _ _ _ q hi h hq => (exec_frame hi h).1.others q hq

/-- Settles O56: `sp` of the frame. -/
theorem stackPointerHasOnlyItsWriters : Obligations.StackPointerHasOnlyItsWriters :=
  fun _ _ _ hi h hsp => (exec_frame hi h).1.sp hsp

/-- Settles O57: `pc` beside the frame. -/
theorem pcAdvancesByTheLength : Obligations.PcAdvancesByTheLength :=
  fun _ _ _ hi h htransfer hhalt hstop => (exec_frame hi h).2 ⟨htransfer, hhalt, hstop⟩

/-- Settles O24: a load's one error is UnmappedAddress. -/
theorem onlyStoresArePermissionDenied : Obligations.OnlyStoresArePermissionDenied :=
  ⟨fun _ _ _ h => Fault.noConfusion (busLoad_error h), fun _ _ k hi h => exec_deniedIn hi h k rfl⟩

end Sys2Proof.Claims
end

section
/-! Stores and what they leave: the bytes an instruction does not store (spec/20_memory.md R76), and what the next fetch
sees of a store (spec/70_reset_and_hazards.md R342, 20_memory.md R81). -/

namespace Sys2Proof.Claims

open Sys2Proof Sys2Proof.Machine

/-! ## One store, or two in a row -/

section
variable {s t : State} {a w : Word} {v : Byte}

/-- A changed cartridge means a store to the control port. -/
theorem inControlPort_of_cart_ne (h : busStore s a v = .ok t) (hne : t.cart ≠ s.cart) :
    InControlPort a ∧ t.mem = s.mem := by
  rcases busStore_cases h with ⟨_, _, rfl⟩ | ⟨_, _, _, _, hlo, hhi, _, rfl⟩
  · exact absurd rfl hne
  · exact ⟨⟨hlo, hhi⟩, rfl⟩

theorem par_of_busStore (h : busStore s a v = .ok t) : t.par = s.par := by
  obtain ⟨_, _, _, _, hpar, _⟩ := busStore_frame h
  exact hpar

/-- Any other address reads as before, but for the switchable window where a bank was selected. -/
theorem busLoad_of_busStore (h : busStore s a v = .ok t) {k : Word} (hk : k ≠ a)
    (hor : t.cart = s.cart ∨ ¬InSwitchable k) : busLoad t k = busLoad s k := by
  by_cases hc : t.cart = s.cart
  · rcases storeChangesOneByteOrTheBank s t a v h with ⟨_, _, hkept, _⟩ | ⟨_, ⟨_, _, _, _, ht⟩, _⟩
    · exact hkept k hk
    · exact busLoad_congr (by rw [ht]) hc (by rw [ht]) k
  · rcases storeChangesOneByteOrTheBank s t a v h with ⟨hsame, _⟩ | ⟨_, _, hkept, _⟩
    · exact absurd hsame hc
    · exact hkept k (hor.resolve_left hc)

/-- The same of a 16-bit store. Two bank selects that end where they began leave memory alone. -/
theorem busLoad_of_store16 (h : store16 s a w = .ok t) {k : Word} (hk : k ≠ a) (hk1 : k ≠ a + 1#16)
    (hor : t.cart = s.cart ∨ ¬InSwitchable k) : busLoad t k = busLoad s k := by
  obtain ⟨s1, h1, h2⟩ := store16_ok h
  by_cases hc1 : s1.cart = s.cart
  · rw [busLoad_of_busStore h2 hk1 (hc1.symm ▸ hor), busLoad_of_busStore h1 hk (.inl hc1)]
  · rcases hor with hc | hout
    · obtain ⟨_, hm1⟩ := inControlPort_of_cart_ne h1 hc1
      obtain ⟨_, hm2⟩ := inControlPort_of_cart_ne h2 fun h => hc1 (h.symm.trans hc)
      exact busLoad_congr (hm2.trans hm1) hc ((par_of_busStore h2).trans (par_of_busStore h1)) k
    · rw [busLoad_of_busStore h2 hk1 (.inr hout), busLoad_of_busStore h1 hk (.inr hout)]

theorem inControlPort_of_store16 (h : store16 s a w = .ok t) (hne : t.cart ≠ s.cart) :
    InControlPort a ∨ InControlPort (a + 1#16) := by
  obtain ⟨s1, h1, h2⟩ := store16_ok h
  by_cases hc1 : s1.cart = s.cart
  · exact .inr (inControlPort_of_cart_ne h2 (hc1.symm ▸ hne)).1
  · exact .inl (inControlPort_of_cart_ne h1 hc1).1

end

/-! ## The bytes an instruction stores -/

section
variable {s t : State} {place : Option (Word × Nat)} (h : StoreAt s t place) (hp : t.par = s.par)
include h

theorem StoreAt.cart_ne (hne : t.cart ≠ s.cart) : ∃ a, InPlace place a ∧ InControlPort a := by
  cases h with
  | nothing _ cart => exact absurd cart hne
  | byte store _ cart => exact ⟨_, inPlace_byte.mpr rfl, (inControlPort_of_cart_ne store (cart ▸ hne)).1⟩
  | word store _ cart =>
    rcases inControlPort_of_store16 store (cart ▸ hne) with ha | ha
    · exact ⟨_, inPlace_word.mpr (.inl rfl), ha⟩
    · exact ⟨_, inPlace_word.mpr (.inr rfl), ha⟩

include hp in
theorem StoreAt.busLoad_kept {a : Word} (ha : ¬InPlace place a) (hor : t.cart = s.cart ∨ ¬InSwitchable a) :
    busLoad t a = busLoad s a := by
  cases h with
  | nothing mem cart => exact busLoad_congr mem cart hp a
  | byte store mem cart =>
    rw [inPlace_byte] at ha
    rw [cart] at hor
    rw [busLoad_congr mem cart (hp.trans (par_of_busStore store).symm) a]
    exact busLoad_of_busStore store ha hor
  | word store mem cart =>
    rw [inPlace_word, not_or] at ha
    rw [cart] at hor
    obtain ⟨_, _, _, _, hpu, _⟩ := store16_frame store
    rw [busLoad_congr mem cart (hp.trans hpu.symm) a]
    exact busLoad_of_store16 store ha.1 ha.2 hor

theorem StoreAt.of_none (hplace : place = none) : t.mem = s.mem ∧ t.cart = s.cart := by
  cases h with
  | nothing mem cart => exact ⟨mem, cart⟩
  | byte => cases hplace
  | word => cases hplace

end

/-- Settles O58: `exec_frame` says which bytes were stored, `StoreAt` what they leave. -/
theorem bytesNotStoredAreKept : Obligations.BytesNotStoredAreKept := by
  intro i s t hi h
  have hstore := (exec_frame hi h).1.store
  exact ⟨fun a ha hor => hstore.busLoad_kept (exec_effect h).1 ha hor, hstore.cart_ne, hstore.of_none⟩

/-! ## What the next fetch sees (R342, R81) -/

theorem selectBank_of_lt {policy : BankOorPolicy} {nsw sel n : Nat} (a : Word) (h : n < nsw) :
    selectBank policy nsw sel n a = .ok n := if_pos h

/-- A Type1 cartridge reads its selected bank in the switchable window. -/
theorem busLoad_switchable {s : State} {img : Image} {sel : Nat} (hc : s.cart = .type1 img sel) {a : Word}
    (ha : InSwitchable a) : busLoad s a = .ok (img.byte (0x4000 * (sel + 1) + (a.toNat - 0x4000))) := by
  obtain ⟨hlo, hhi⟩ := ha
  have hin : inWindow s.cart.window a.toNat = true := by
    rw [hc]
    exact inWindow_iff.mpr ⟨Nat.zero_le _, by simp only [Cartridge.window]; omega⟩
  rw [busLoad_inside hin, hc, cartLoad_type1_inside img sel hhi, type1Offset_switchable sel hlo]

/-- Bytes given by their distance from an address stand there one after the other. -/
theorem bytesAt_of_getElem? {s : State} {bytes : List Byte} {a : Word}
    (h : ∀ k b, bytes[k]? = some b → busLoad s (a + BitVec.ofNat 16 k) = .ok b) : BytesAt s a bytes := by
  induction bytes generalizing a with
  | nil => trivial
  | cons b rest ih =>
    refine ⟨by simpa using h 0 b rfl, ih fun k b' hk => ?_⟩
    rw [BitVec.add_assoc, ← BitVec.ofNat_add, Nat.add_comm]
    exact h (k + 1) b' hk

/-- Settles O59: the select is a store to the control port, after which fetch reads the new bank. -/
theorem bankSelectActsOnTheNextFetch : Obligations.BankSelectActsOnTheNextFetch := by
  intro s img sel d8 hc hport hlt
  have hstore : busStore s s.hl d8 = .ok { s with cart := .type1 img (max d8.toNat 1 - 1) } :=
    busStore_controlPort hc hport (by rw [bankIndex_eq]; exact selectBank_of_lt _ hlt)
  have hbank : max d8.toNat 1 - 1 + 1 = max d8.toNat 1 := Nat.sub_add_cancel (Nat.le_max_right ..)
  obtain ⟨_, hcompletes, _⟩ := byteStoresComplete
  obtain ⟨hexec, _⟩ := hcompletes d8 s
  have hload (a : Word) (ha : InSwitchable a) := busLoad_switchable
    (s := { s with cart := .type1 img (max d8.toNat 1 - 1), pc := s.pc + 2#16 }) rfl ha
  rw [hbank] at hload
  refine ⟨_, hexec _ hstore, rfl, rfl, hload, fun bytes i hbytes hdecode => ?_⟩
  refine stepRunsTheDecodedInstruction _ bytes i (bytesAt_of_getElem? fun k b hk => ?_) hdecode
  obtain ⟨hin, rfl⟩ := hbytes k b hk
  exact hload _ hin

/-- A store instruction that completes has stored. -/
theorem busStore_of_storesTo {i : Instr} {addr : State → Word} {value : State → Byte} {also : State → State → State}
    {s t : State} (hi : StoresTo i addr value also) (h : exec i s = .next t) :
    ∃ u, busStore s (addr s) (value s) = .ok u ∧ t = also s u := by
  obtain ⟨hok, herr⟩ := hi s
  cases hstore : busStore s (addr s) (value s) with
  | ok u =>
    cases h.symm.trans (hok u hstore)
    exact ⟨u, rfl, rfl⟩
  | error e => cases h.symm.trans (herr e hstore)

/-- Settles O60: the byte stored stands at the next `pc`. -/
theorem storedByteIsFetchedNext : Obligations.StoredByteIsFetchedNext := by
  rintro s t i _ hhl h hout rfl hdecode
  obtain ⟨hstores, _⟩ := byteStoresComplete
  obtain ⟨u, hstore, rfl⟩ := busStore_of_storesTo (hstores .A) h
  obtain ⟨_, hpar, hload⟩ := busStore_outside hout hstore
  have hbyte : busLoad u (s.pc + 1#16) = .ok s.a := by rw [hload, if_pos hhl.symm]; rfl
  exact stepRunsTheDecodedInstruction _ [s.a] i ⟨hbyte, trivial⟩ (hpar ▸ hdecode)

end Sys2Proof.Claims
end
